-- ==== Sys2Proof/Word.lean ====
section
/-! DEFINITION. The words and index ranges of the manual (00 section 6, R182). -/

namespace Sys2Proof

/-- One byte of a burst or a record. -/
abbrev Byte := BitVec 8

/-- Lobby time: whole seconds modulo 2^20 (00 section 6.2). -/
abbrev LobbyTime := BitVec 20

/-- The centi-tick count, which wraps from 65535 to 0 (R61). -/
abbrev Ticks := BitVec 16

/-- A controller tag, 0–63 (R156). -/
abbrev CtlTag := Fin 64

/-- A memory-side tag, 0–127; 64–127 mark the part's own requests (R158). -/
abbrev MemTag := Fin 128

/-- The index of a showing record. -/
abbrev ShowingIx := Fin 256

/-- The index of a display panel. -/
abbrev PanelIx := Fin 24

/-- The index of a line descriptor in a layout. -/
abbrev LineIx := Fin 16

/-- The index of a cell place on a line (R77). -/
abbrev CellIx := Fin 48

/-- The index of a title entry. -/
abbrev TitleIx := Fin 64

/-- A hall number as records hold it. -/
abbrev HallIx := Fin 32

/-- The index of a notice record. -/
abbrev NoticeIx := Fin 32

/-- The index of a journal slot. -/
abbrev JournalIx := Fin 64

/-- The index of a Hold Table entry. -/
abbrev HoldIx := Fin 64

/-- The index of a trailer stream. -/
abbrev StreamIx := Fin 4

/-- The index of a frame slot of a stream. -/
abbrev FrameIx := Fin 4

/-- The index of a trailer catalog entry. -/
abbrev CatalogIx := Fin 48

/-- The index of a phase of a rotation table. -/
abbrev RotationIx := Fin 32

/-- The index of a banner glyph cache entry. -/
abbrev CacheIx := Fin 128

/-- The index of a colour pair of a palette. -/
abbrev PairIx := Fin 16

end Sys2Proof
end

