-- ==== Sys2Proof/Syntax.lean ====
section
/-! DEFINITION. The commands of the block: one constructor per row of spec/opcode_table.json, with what each carries
from outside the part (a controller's burst, memory's answer, a strap, the tag or panel an event concerns). -/

namespace Sys2Proof

/-- The status of a response (section 10.1). -/
inductive Status where
  | ok
  | fault
  deriving DecidableEq, Repr

/-- One burst of the content link (section 10.1): a read or a write of `beats` beats from `addr`. `lanes` holds the
bytes of a write in address order, `none` for a byte whose enable mark is clear; a read has no lanes. -/
structure Burst where
  isWrite : Bool
  addr    : BitVec 32
  beats   : Nat
  lanes   : List (Option Byte)
  deriving DecidableEq, Repr

/-- The part's steps (opcode_table.json). Each docstring names the row and its rule. -/
inductive Instr where
  /-- RESET_N_ASSERT (R176). -/
  | resetNAssert
  /-- RESET_N_RELEASE (R176): `sbase` is the level of SBASE[2:0] as RESET_N rises. -/
  | resetNRelease (sbase : BitVec 3)
  /-- LRST_N_ASSERT (R161). -/
  | lrstNAssert
  /-- LRST_N_RELEASE (R161). -/
  | lrstNRelease
  /-- CONTROLLER_REQUEST (R155). -/
  | controllerRequest (tag : CtlTag) (burst : Burst)
  /-- FORWARD_GRANT (R157). -/
  | forwardGrant
  /-- MEMORY_RESPONSE (R160): memory's answer to a controller request. -/
  | memoryResponse (tag : MemTag) (status : Status) (data : List Byte)
  /-- HOST_TIMEOUT (R159). -/
  | hostTimeout (tag : CtlTag)
  /-- OWN_REQUEST_TIMEOUT (R159). -/
  | ownRequestTimeout (tag : MemTag)
  /-- CENTI_TICK (R61). -/
  | centiTick
  /-- LOBBY_SECOND (R62). -/
  | lobbySecond
  /-- PHASE_FIRE (R23): the PHASE entry at the head of the firing batch is handed on. -/
  | phaseFire
  /-- HOLD_EXPIRE (R55): the HOLD_EXPIRE entry at the head of the firing batch is handed on. -/
  | holdExpire
  /-- NOTICE_EXPIRE (R113): the NOTICE_EXPIRE entry at the head of the firing batch is handed on. -/
  | noticeExpire
  /-- GAP_TIMEOUT (R47). -/
  | gapTimeout
  /-- PASS_IDLE_TIMEOUT (R129). -/
  | passIdleTimeout (panel : PanelIx)
  /-- COMMIT_FETCH_ISSUE (R12). -/
  | commitFetchIssue
  /-- COMMIT_FETCH_COMPLETE (R13): memory's answer to one burst of a record fetch. -/
  | commitFetchComplete (tag : MemTag) (status : Status) (data : List Byte)
  /-- JOURNAL_FETCH_ISSUE (R42). -/
  | journalFetchIssue
  /-- JOURNAL_FETCH_COMPLETE (R43). -/
  | journalFetchComplete (tag : MemTag) (status : Status) (data : List Byte)
  /-- WRITE_BACK_ISSUE (R15). -/
  | writeBackIssue
  /-- WRITE_BACK_COMPLETE (R15). -/
  | writeBackComplete (tag : MemTag) (status : Status)
  /-- CELL_TAKE (R100). -/
  | cellTake
  /-- GLYPH_READ_ISSUE (R101). -/
  | glyphReadIssue
  /-- GLYPH_READ_RESPONSE (R101). -/
  | glyphReadResponse (tag : MemTag) (status : Status) (data : List Byte)
  /-- ROW_WRITE_ISSUE (R102). -/
  | rowWriteIssue
  /-- ROW_WRITE_RESPONSE (R101). -/
  | rowWriteResponse (tag : MemTag) (status : Status)
  /-- PAINT_COMPLETE (R103). -/
  | paintComplete
  /-- GLYPH_FETCH_ISSUE (R119). -/
  | glyphFetchIssue
  /-- GLYPH_FETCH_COMPLETE (R120). -/
  | glyphFetchComplete (tag : MemTag) (status : Status) (data : List Byte)
  /-- REPORT_RECORD_WRITE (R167). -/
  | reportRecordWrite
  /-- REPORT_HEADER_WRITE (R167). -/
  | reportHeaderWrite
  /-- REPORT_WRITE_COMPLETE (R167). -/
  | reportWriteComplete (tag : MemTag) (status : Status)
  /-- SETUP_READ (R176). -/
  | setupRead
  /-- SETUP_READ_COMPLETE (R177): memory's answer to one of the 32 reads. -/
  | setupReadComplete (tag : MemTag) (status : Status) (data : List Byte)
  /-- BUILD_READ (R178). -/
  | buildRead
  /-- BUILD_READ_COMPLETE (R178). -/
  | buildReadComplete (tag : MemTag) (status : Status) (data : List Byte)
  /-- RESTART_RELOAD (R181). -/
  | restartReload
  deriving DecidableEq, Repr

end Sys2Proof
end

