-- ==== Sys2Proof/Config.lean ====
section
/-! DEFINITION. The free values: bytes that the manual has the part write without saying what they are (log 15).
`freeByte` has no body, so nothing in Lean can evaluate it: whatever is proved holds for every value of it. -/

namespace Sys2Proof.Config

/-- The n-th byte of a run that the manual leaves unstated. DESIGN CHOICE (log 15), safe. -/
opaque freeByte : Nat → Byte

end Sys2Proof.Config
end

