-- ==== Sys2Proof/Machine/State.lean ====
section
/-! DEFINITION. The state of the part, block by block as 00 section 3 lists them, and its value after power-on reset. -/

namespace Sys2Proof.Machine

/-! ### Part state and setup (Chapter 12) -/

/-- The six part states of Chapter 12. -/
inductive PartState where
  | loading
  | building
  | running
  | restarting
  | quiet
  | transparent
  deriving DecidableEq, Repr

/-- The containment modes of the Setup Block (R172). -/
inductive ContainMode where
  | report
  | quiet
  | transparent
  deriving DecidableEq, Repr

/-- Which ranges the Window Decoder holds: none in LOADING (R1), the Setup Block range alone after a refused load
(R177), all of them after an accepted one. -/
inductive Ranges where
  | none
  | setupOnly
  | all
  deriving DecidableEq, Repr

/-- The seven windows (00 section 4). -/
inductive Window where
  | showings
  | journal
  | notices
  | layouts
  | text
  | trailers
  | reports
  deriving DecidableEq, Repr

/-- The seven window bases (R183). -/
structure Windows where
  showings : Nat
  journal  : Nat
  notices  : Nat
  layouts  : Nat
  text     : Nat
  trailers : Nat
  reports  : Nat
  deriving DecidableEq, Repr

/-- A panel geometry entry of the Setup Block (R183). -/
structure PanelGeom where
  enabled : Bool
  width   : Nat
  height  : Nat
  base    : Nat
  stride  : Nat
  deriving DecidableEq, Repr

/-- A stream descriptor of the Setup Block (R183). -/
structure StreamDesc where
  enabled : Bool
  width   : Nat
  height  : Nat
  stride  : Nat
  slots   : Vector Nat 4
  deriving DecidableEq, Repr

/-- The values in force from the last accepted Setup Block (R177), less the NCO step, which the Lobby Clock holds. -/
structure Setup where
  windows : Windows
  mode    : ContainMode
  origin  : Nat
  lead    : Nat
  grace   : Nat
  gap     : Nat
  panels  : Vector PanelGeom 24
  streams : Vector StreamDesc 4
  deriving DecidableEq, Repr

/-- The outcome of one own read: its data, or a fault (FAULT or timeout). -/
inductive ReadResult where
  | ok (data : List Byte)
  | fault
  deriving DecidableEq, Repr

/-- How far a load or a warm restart has come (R176, R178, R181; log 12). -/
inductive Stage where
  /-- stage 1: waiting for the part's outstanding own requests -/
  | wait
  /-- the 32 reads of the Setup Block are under way -/
  | setupReads
  /-- the Setup Block read in a warm restart, with these bytes, has passed R177 -/
  | accepted (block : List Byte)
  /-- the tables are being read -/
  | build
  deriving DecidableEq, Repr

/-- Start and Containment's own state. -/
structure Start where
  sbase       : Option (BitVec 3)
  stage       : Stage
  resume      : Bool
  setupIssued : Nat
  setupGot    : List (Nat × ReadResult)
  buildIssued : Nat
  buildDone   : Nat
  buildGot    : List (Nat × ReadResult)
  layoutParts : List ReadResult
  posted      : List NoticeIx
  deriving DecidableEq, Repr

/-! ### Records, requests and the Traffic Path (Chapters 1 and 10) -/

/-- A committable record (R7); there are 428. -/
inductive RecordId where
  | showing  (i : ShowingIx)
  | notice   (i : NoticeIx)
  | layout   (i : PanelIx)
  | title    (i : TitleIx)
  | catalog  (i : CatalogIx)
  | rotation (i : StreamIx)
  deriving DecidableEq, Repr

/-- One value for each committable record. -/
structure RecTable (α : Type) where
  showing  : Vector α 256
  notice   : Vector α 32
  layout   : Vector α 24
  title    : Vector α 64
  catalog  : Vector α 48
  rotation : Vector α 4
  deriving DecidableEq, Repr

/-- A record whose part-owned bytes the Commit Unit writes back (R15). -/
inductive WriteBack where
  | showing (i : ShowingIx)
  | journal
  | stream  (i : StreamIx)
  deriving DecidableEq, Repr

/-- The class of a request (R1) with what the decoder also gives; `off` is counted from the window's or block's
base, or from the start of the frame row. -/
inductive ReqClass where
  | windowRecord (w : Window) (off : Nat)
  | windowUnused (w : Window)
  | setup        (off : Nat)
  | panelFrame   (p : PanelIx) (row off : Nat)
  | slotPixels   (s : StreamIx) (k : FrameIx) (row off : Nat)
  | slotTag      (s : StreamIx) (k : FrameIx)
  | pass
  deriving DecidableEq, Repr

/-- One commit byte or observed field that a write covers, with its written value (R6). -/
inductive CommitItem where
  | revision (r : RecordId) (v : Byte)
  | lap      (slot : JournalIx) (v : Byte)
  | consumer (v : Byte)
  | overflow (v : Byte)
  | restart  (v : Byte)
  /-- the revision byte, and the four value bytes if the write enables them all (R11) -/
  | timeSet  (rev : Byte) (value : Option (List Byte))
  /-- a write of the last byte of the frame tag at `addr`, and the eight bytes if the write enables them all (R10) -/
  | tag      (s : StreamIx) (k : FrameIx) (addr : Nat) (bytes : Option (List Byte))
  deriving DecidableEq, Repr

/-- A pixel: four bytes in address order B, G, R, A (00 section 6.5). -/
structure Pixel where
  b : Byte
  g : Byte
  r : Byte
  a : Byte
  deriving DecidableEq, Repr

/-- What an OVERLAY plan records (R131): for each pixel column of the read, its glyph bit, or `none` outside the band.
-/
structure Overlay where
  bits : List (Option Bool)
  fg   : Pixel
  bg   : Pixel
  dim  : Nat
  deriving DecidableEq, Repr

/-- A read plan (R130). -/
inductive Plan where
  | none
  | overlay  (o : Overlay)
  | redirect (addr : BitVec 32)
  deriving DecidableEq, Repr

/-- The stage of an in-flight entry (R156). -/
inductive EntryStage where
  | queued
  | forwarded
  deriving DecidableEq, Repr

/-- An in-flight entry (R156). -/
structure InFlight where
  burst   : Burst
  cls     : ReqClass
  plan    : Plan
  commits : List CommitItem
  stage   : EntryStage
  started : Nat
  deriving DecidableEq, Repr

/-- What one of the part's own requests is for. -/
inductive OwnPurpose where
  | setupRead   (k : Nat)
  | buildRead   (k : Nat)
  | commitFetch (r : RecordId) (burst : Nat)
  | journalFetch
  | writeBack   (w : WriteBack)
  | glyphRead   (slot : Fin 2)
  | rowWrite    (slot : Fin 2) (row : Nat)
  | glyphFetch  (e : CacheIx)
  | reportRecord
  | reportHeader
  deriving DecidableEq, Repr

/-- Where an own request stands: awaited by its requester, awaited only for its tag (its completion is discarded,
R174, R181), or timed out (R159). -/
inductive OwnStatus where
  | live
  | dropped
  | timedOut
  deriving DecidableEq, Repr

/-- What a reserved memory tag belongs to (R160). -/
inductive Holder where
  /-- a controller request in use in the in-flight table -/
  | inFlight
  /-- a controller request whose entry a link reset dropped, with its commit record -/
  | afterReset (commits : List CommitItem)
  /-- a controller request whose timer expired -/
  | timedOut
  /-- an own request, with the time its timer started -/
  | own (p : OwnPurpose) (started : Nat) (st : OwnStatus)
  deriving DecidableEq, Repr

/-- A reserved memory tag (R158): the request that carries it and what it belongs to. -/
structure TagUse where
  addr    : BitVec 32
  isWrite : Bool
  beats   : Nat
  holder  : Holder
  deriving DecidableEq, Repr

/-- The own requesters in round-robin order (R163). -/
inductive Requester where
  | start
  | commit
  | painter
  | notice
  | report
  deriving DecidableEq, Repr

/-- The Traffic Path and the arbiter (R165). -/
structure Traffic where
  queue    : List CtlTag
  inflight : Vector (Option InFlight) 64
  tags     : Vector (Option TagUse) 128
  grants   : Nat
  place    : Requester
  cycles   : Nat
  deriving DecidableEq, Repr

/-- A request as the part issues it on the memory port. -/
structure MemRequest where
  tag   : MemTag
  burst : Burst
  deriving DecidableEq, Repr

/-- A response as the part returns it on the controller port. -/
structure CtlResponse where
  tag    : CtlTag
  status : Status
  data   : List Byte
  deriving DecidableEq, Repr

/-! ### Commit Unit (Chapter 1) -/

/-- The fetch states of section 1.4. -/
inductive FetchState where
  | idle
  | queued
  | fetching
  | stale
  deriving DecidableEq, Repr

/-- A record fetch under way: how many of its bursts have been issued, and the responses taken so far. -/
structure Fetch where
  record : RecordId
  issued : Nat
  taken  : List (Nat × ReadResult)
  deriving DecidableEq, Repr

/-- The three write-back queues the Commit Unit serves in turn (R15). -/
inductive WbQueue where
  | showings
  | journal
  | streams
  deriving DecidableEq, Repr

/-- The Commit Unit (R18). -/
structure CommitUnit where
  revs        : RecTable Byte
  fetch       : RecTable FetchState
  queue       : List RecordId
  fetches     : List Fetch
  wbShowings  : List ShowingIx
  wbJournal   : Bool
  wbStreams   : List StreamIx
  wbLast      : WbQueue
  lastRestart : Byte
  lastTimeSet : Byte
  deriving DecidableEq, Repr

/-- A request the Commit Unit offers (R163). -/
inductive CommitOffer where
  /-- the first burst of a fetch of the record at the head of the commit queue -/
  | fetch
  /-- the next burst of a fetch under way -/
  | burst (r : RecordId)
  | journal
  | writeBack (w : WriteBack)
  deriving DecidableEq, Repr

/-- A request the Cell Painter offers (R102). -/
inductive PaintOffer where
  | glyph (slot : Fin 2)
  | row   (slot : Fin 2)
  deriving DecidableEq, Repr

/-- A request the Report Unit offers (R167). -/
inductive ReportOffer where
  | header
  | record
  deriving DecidableEq, Repr

/-- The requests that requesters have chosen as their next: a chosen request stays its requester's next (R162). -/
structure Offers where
  commit  : List CommitOffer
  painter : Option PaintOffer
  report  : Option ReportOffer
  deriving DecidableEq, Repr

/-! ### Seat Unit, Journal Unit, Hold Table (Chapters 2 and 3) -/

/-- The phases of a showing (section 2.1). -/
inductive Phase where
  | vacant
  | onSale
  | lastCall
  | started
  | closed
  | cancelled
  deriving DecidableEq, Repr

/-- A seat entry (R20). -/
structure Seat where
  phase    : Phase
  title    : TitleIx
  hall     : HallIx
  start    : LobbyTime
  capacity : Nat
  sold     : Nat
  held     : Nat
  left     : Nat
  changed  : LobbyTime
  deriving DecidableEq, Repr

/-- The Seat Unit: 256 seat entries and 64 sellable counts. -/
structure SeatUnit where
  entries  : Vector Seat 256
  sellable : Vector Nat 64
  deriving DecidableEq, Repr

/-- The lap of the journal ring, 1 or 2 (R39). -/
inductive Lap where
  | one
  | two
  deriving DecidableEq, Repr

/-- The states of the tail fetch (section 3.2). -/
inductive JournalFetch where
  | none
  | fetching
  | stale
  deriving DecidableEq, Repr

/-- The Journal Unit (R58). `gapStart` is the centi-tick count the gap timer noted when it started. -/
structure Journal where
  tail     : JournalIx
  lap      : Lap
  marks    : Vector Bool 64
  fetch    : JournalFetch
  gapStart : Option Ticks
  deriving DecidableEq, Repr

/-- A live hold (R54). -/
structure Hold where
  showing : ShowingIx
  desk    : Fin 8
  token   : BitVec 16
  seats   : Nat
  deriving DecidableEq, Repr

/-! ### Lobby Clock and Due List (Chapter 4) -/

/-- The Lobby Clock (R75). `secondsDue` counts completed lobby seconds not yet taken (log 4). -/
structure Clock where
  running    : Bool
  acc        : BitVec 32
  step       : Option (BitVec 32)
  ticks      : Ticks
  sub        : Nat
  now        : LobbyTime
  secondsDue : Nat
  withheld   : Nat
  pendingSet : Option LobbyTime
  deriving DecidableEq, Repr

/-- The kind and subject of a due entry (section 4.3). -/
inductive DueKey where
  | phase  (i : ShowingIx)
  | hold   (h : HoldIx)
  | notice (n : NoticeIx)
  deriving DecidableEq, Repr

/-- A due entry. `target` is the target phase of a PHASE entry, and `none` for the other kinds. -/
structure DueEntry where
  key    : DueKey
  target : Option Phase
  time   : LobbyTime
  deriving DecidableEq, Repr

/-- The Due List and the firing batch being handed on (R68). -/
structure DueList where
  list  : List DueEntry
  batch : List DueEntry
  deriving DecidableEq, Repr

/-! ### Roster Unit (Chapter 5) -/

/-- A colour pair of a palette (R76). -/
structure ColourPair where
  fg : Pixel
  bg : Pixel
  deriving DecidableEq, Repr

/-- The line kinds (R76). -/
inductive LineKind where
  | unused
  | rosterWide
  | rosterNarrow
  | notice
  | clock
  | trailer
  deriving DecidableEq, Repr

/-- A line descriptor of an accepted layout (R76). -/
structure Line where
  kind    : LineKind
  rank    : Nat
  x       : Nat
  y       : Nat
  width   : Nat
  normal  : PairIx
  alt     : PairIx
  soldOut : PairIx
  started : PairIx
  stream  : StreamIx
  deriving DecidableEq, Repr

/-- A banner spec (R76). -/
structure BannerSpec where
  enabled : Bool
  x       : Nat
  y       : Nat
  fg      : Pixel
  bg      : Pixel
  dim     : Nat
  deriving DecidableEq, Repr

/-- A roster filter, with F, Q and H as clamped (R76). -/
structure Filter where
  halls       : BitVec 32
  inclStarted : Bool
  skipSoldOut : Bool
  f           : Nat
  q           : Nat
  h           : Nat
  deriving DecidableEq, Repr

/-- An accepted layout (R76). -/
structure Layout where
  palette : Vector ColourPair 16
  lines   : Vector Line 16
  banner  : BannerSpec
  filter  : Filter
  deriving DecidableEq, Repr

/-- A title entry (R81). -/
structure Title where
  text   : List Byte
  length : Nat
  deriving DecidableEq, Repr

/-- A cell's target: a glyph code and a colour pair index (R85). -/
structure Target where
  code : Byte
  pair : PairIx
  deriving DecidableEq, Repr

/-- The Roster Unit (R95). -/
structure RosterUnit where
  layouts : Vector Layout 24
  titles  : Vector Title 64
  rosters : Vector (List ShowingIx) 24
  assign  : Vector (Vector (Option ShowingIx) 16) 24
  shown   : Vector (Vector (Option Nat) 16) 24
  targets : Vector (Vector (Vector Target 48) 16) 24
  deriving DecidableEq, Repr

/-! ### Cell Painter (Chapter 6) -/

/-- A cell place of the cell mirror (section 6.1). -/
structure CellRef where
  panel : PanelIx
  line  : LineIx
  cell  : CellIx
  deriving DecidableEq, Repr

/-- What the Cell Painter holds for a place (R96); `painted = none` is UNKNOWN. -/
structure CellMarks where
  painted  : Option Target
  queued   : Bool
  painting : Bool
  spoiled  : Bool
  faulted  : Bool
  deriving DecidableEq, Repr

/-- The stages of a paint (section 6.3). -/
inductive PaintStage where
  | glyph
  | rows
  | ended
  deriving DecidableEq, Repr

/-- The stage of a paint that faulted (R104). -/
inductive PaintFault where
  | glyph
  | row (r : Nat)
  deriving DecidableEq, Repr

/-- A paint in a slot: the values recorded at the take (R100) and how far it has come. -/
structure Paint where
  slot        : Fin 2
  ref         : CellRef
  target      : Target
  fg          : Pixel
  bg          : Pixel
  x           : Nat
  y           : Nat
  base        : Nat
  stride      : Nat
  stage       : PaintStage
  glyphIssued : Bool
  glyph       : List Byte
  rowsIssued  : Nat
  rowsDone    : Nat
  fault       : Option PaintFault
  void        : Bool
  interrupted : Bool
  deriving DecidableEq, Repr

/-- The Cell Painter (R109). `slots` holds the paints in the order of their takes, at most two (R102). -/
structure Painter where
  marks  : Vector (Vector (Vector CellMarks 48) 16) 24
  redraw : Vector (Vector Bool 16) 24
  queue  : List CellRef
  slots  : List Paint
  deriving DecidableEq, Repr

/-! ### Notice Unit (Chapter 7) -/

/-- The states of a notice entry (R111). -/
inductive NoticeState where
  | idle
  | lineActive
  | bannerWaiting
  | bannerLoading
  | bannerReady
  deriving DecidableEq, Repr

/-- The notice kinds (R182). -/
inductive NoticeKind where
  | line
  | banner
  deriving DecidableEq, Repr

/-- The fields of a POSTED notice record (section 7.1). -/
structure NoticeFields where
  text     : List Byte
  kind     : NoticeKind
  priority : Nat
  length   : Nat
  mask     : BitVec 24
  lifetime : Nat
  deriving DecidableEq, Repr

/-- A notice entry (R111). `entries` names the cache entry of each distinct code of a loading or ready banner. -/
structure Notice where
  state   : NoticeState
  fields  : NoticeFields
  seq     : BitVec 32
  entries : List (Byte × CacheIx)
  deriving DecidableEq, Repr

/-- The fill states of a cache entry (R116), with the code and mask each holds. -/
inductive Fill where
  | empty
  | filling (code : Byte)
  | held    (code : Byte) (mask : List Byte)
  deriving DecidableEq, Repr

/-- A banner glyph cache entry (R116). -/
structure CacheEntry where
  fill : Fill
  refs : Nat
  deriving DecidableEq, Repr

/-- The Notice Unit (R123). -/
structure NoticeUnit where
  entries   : Vector Notice 32
  counter   : BitVec 32
  waitList  : List NoticeIx
  cache     : Vector CacheEntry 128
  fetchList : List CacheIx
  deriving DecidableEq, Repr

/-! ### Scan Tracker (Chapter 8) -/

/-- The banner part of a pass latch (R125): for each text position the cache entry of its code. -/
structure BannerLatch where
  entries : List CacheIx
  bx      : Nat
  byRow   : Nat
  fg      : Pixel
  bg      : Pixel
  dim     : Nat
  deriving DecidableEq, Repr

/-- The trailer part of a pass latch (R125). -/
structure TrailerLatch where
  stream : StreamIx
  slot   : FrameIx
  base   : Nat
  stride : Nat
  x0     : Nat
  y0     : Nat
  width  : Nat
  height : Nat
  deriving DecidableEq, Repr

/-- The scan state of a panel (R125). `idleStart` is the centi-tick count the idle timer noted, `none` while it is
stopped. -/
structure PanelScan where
  scanning  : Bool
  lastRow   : Nat
  idleStart : Option Ticks
  banner    : Option BannerLatch
  trailer   : Option TrailerLatch
  deriving DecidableEq, Repr

/-! ### Trailer Unit (Chapter 9) -/

/-- The states of a trailer slot (R140). -/
inductive SlotState where
  | free
  | filling
  | complete
  deriving DecidableEq, Repr

/-- A trailer slot record (R140). -/
structure FrameSlot where
  state   : SlotState
  newest  : Bool
  latches : Nat
  item    : Option CatalogIx
  deriving DecidableEq, Repr

/-- A stream record (R140). -/
structure Stream where
  slots     : Vector FrameSlot 4
  current   : Option CatalogIx
  remaining : Nat
  cued      : Option CatalogIx
  pointer   : RotationIx
  deriving DecidableEq, Repr

/-- A catalog entry (section 9.4). -/
structure CatalogEntry where
  enabled : Bool
  linked  : Option TitleIx
  frames  : Nat
  deriving DecidableEq, Repr

/-- The Trailer Unit (R153). -/
structure TrailerUnit where
  streams  : Vector Stream 4
  catalog  : Vector CatalogEntry 48
  rotation : Vector (Vector (Option CatalogIx) 32) 4
  deriving DecidableEq, Repr

/-! ### Report Unit (Chapter 11) -/

/-- The report kinds of R188. -/
inductive ReportKind where
  | ready
  | showingRefused
  | soldOut
  | lateRecord
  | journalGap
  | journalBad
  | saleRefused
  | saleClamped
  | holdRefused
  | convertLate
  | releaseUnknown
  | holdExpired
  | timeSet
  | layoutRefused
  | paintFault
  | noticeRefused
  | noticeExpired
  | bannerWaiting
  | glyphFault
  | tear
  | catalogRefused
  | trailerCue
  | partialWrite
  | tagReused
  | hostTimeout
  | memoryFault
  | refundClamped
  | holdShort
  deriving DecidableEq, Repr

/-- A report as raised (R166): the items of its subject and of its detail, as bytes, before the zero fill of R188. -/
structure Report where
  kind    : ReportKind
  time    : LobbyTime
  subject : List Byte
  detail  : List Byte
  deriving DecidableEq, Repr

/-- The Report Unit (R175). -/
structure ReportUnit where
  p            : BitVec 6
  c            : BitVec 6
  overflow     : Bool
  queue        : List Report
  headerQueued : Bool
  deriving DecidableEq, Repr

/-! ### The whole part -/

/-- The reasons a step stops. The spec describes no machine fault of the part; these two say that what came in on a
port is no transaction of the content link (log 5). -/
inductive Fault where
  /-- Raised by CONTROLLER_REQUEST for a request the port would take whose burst breaks 00 section 6.3. Safe: the
  manual gives such a request no meaning. -/
  | brokenBurst
  /-- Raised by the response commands for a response that does not carry the beats of the request its tag is reserved
  for (section 10.1). Safe: the manual gives such a response no meaning. -/
  | brokenResponse
  deriving DecidableEq, Repr

/-- The reasons a step gives no meaning. -/
inductive Refusal where
  /-- Raised by `exec` for a row that has no meaning yet; no row is left so. Safe. -/
  | notModelled (mnemonic : String)
  deriving DecidableEq, Repr

/-- The state of the part. -/
structure State where
  resetN   : Bool
  lrstN    : Bool
  part     : PartState
  decoder  : Ranges
  setup    : Setup
  start    : Start
  traffic  : Traffic
  commit   : CommitUnit
  offers   : Offers
  seats    : SeatUnit
  journal  : Journal
  holds    : Vector (Option Hold) 64
  clock    : Clock
  due      : DueList
  roster   : RosterUnit
  painter  : Painter
  notices  : NoticeUnit
  scan     : Vector PanelScan 24
  trailers : TrailerUnit
  reports  : ReportUnit
  memOut   : List MemRequest
  ctlOut   : List CtlResponse
  free     : Nat
  pending  : List Instr
  deriving DecidableEq, Repr

/-! ### Power-on values -/

/-- A pixel of zero bytes. -/
def Pixel.zero : Pixel := { b := 0, g := 0, r := 0, a := 0 }

/-- One value in every place of a record table. -/
def RecTable.const {α : Type} (a : α) : RecTable α :=
  { showing := Vector.replicate 256 a, notice := Vector.replicate 32 a, layout := Vector.replicate 24 a,
    title := Vector.replicate 64 a, catalog := Vector.replicate 48 a, rotation := Vector.replicate 4 a }

/-- A VACANT seat entry (R29, R36), with its time of last change. -/
def Seat.vacant (changed : LobbyTime) : Seat :=
  { phase := .vacant, title := 0, hall := 0, start := 0, capacity := 0, sold := 0, held := 0, left := 0,
    changed := changed }

/-- An UNUSED line descriptor. -/
def Line.unused : Line :=
  { kind := .unused, rank := 0, x := 0, y := 0, width := 0, normal := 0, alt := 0, soldOut := 0, started := 0,
    stream := 0 }

/-- The empty layout of R95, whose two roster choices are clear (DESIGN CHOICE, log 23). -/
def Layout.empty : Layout :=
  { palette := Vector.replicate 16 { fg := .zero, bg := .zero }
    lines := Vector.replicate 16 .unused
    banner := { enabled := false, x := 0, y := 0, fg := .zero, bg := .zero, dim := 0 }
    filter := { halls := 0, inclStarted := false, skipSoldOut := false, f := 0, q := 1, h := 0 } }

/-- The power-on title entry (R95): length 0, text bytes 0. -/
def Title.empty : Title := { text := List.replicate 28 0, length := 0 }

/-- A space in pair 0 (R95). -/
def Target.space0 : Target := { code := 32, pair := 0 }

/-- A place with painted content UNKNOWN and every mark clear (R109). -/
def CellMarks.clear : CellMarks :=
  { painted := none, queued := false, painting := false, spoiled := false, faulted := false }

/-- An IDLE notice entry of zero fields (R123). -/
def Notice.idle : Notice :=
  { state := .idle
    fields := { text := List.replicate 48 0, kind := .line, priority := 0, length := 0, mask := 0, lifetime := 0 }
    seq := 0, entries := [] }

/-- An EMPTY cache entry (R116). -/
def CacheEntry.empty : CacheEntry := { fill := .empty, refs := 0 }

/-- An IDLE panel (R139). -/
def PanelScan.idle : PanelScan :=
  { scanning := false, lastRow := 0, idleStart := none, banner := none, trailer := none }

/-- A FREE slot (R153). -/
def FrameSlot.free : FrameSlot := { state := .free, newest := false, latches := 0, item := none }

/-- A stream at its power-on values (R153). -/
def Stream.empty : Stream :=
  { slots := Vector.replicate 4 .free, current := none, remaining := 0, cued := none, pointer := 0 }

/-- The empty catalog entry of R153. -/
def CatalogEntry.empty : CatalogEntry := { enabled := false, linked := none, frames := 1 }

/-- Setup values before any load (DESIGN CHOICE, log 23). -/
def Setup.initial : Setup :=
  { windows := { showings := 0, journal := 0, notices := 0, layouts := 0, text := 0, trailers := 0, reports := 0 }
    mode := .report, origin := 0, lead := 0, grace := 0, gap := 10
    panels := Vector.replicate 24 { enabled := false, width := 0, height := 0, base := 0, stride := 0 }
    streams := Vector.replicate 4
      { enabled := false, width := 0, height := 0, stride := 0, slots := Vector.replicate 4 0 } }

/-- Start and Containment before any load. -/
def Start.initial : Start :=
  { sbase := none, stage := .wait, resume := false, setupIssued := 0, setupGot := [],
    buildIssued := 0, buildDone := 0, buildGot := [], layoutParts := [], posted := [] }

/-- The Traffic Path after power-on reset (R165). -/
def Traffic.initial : Traffic :=
  { queue := [], inflight := Vector.replicate 64 none, tags := Vector.replicate 128 none, grants := 0,
    place := .report, cycles := 0 }

/-- The Commit Unit after power-on reset (R18). -/
def CommitUnit.initial : CommitUnit :=
  { revs := .const 0, fetch := .const .idle, queue := [], fetches := [], wbShowings := [], wbJournal := false,
    wbStreams := [], wbLast := .streams, lastRestart := 0, lastTimeSet := 0 }

/-- No request offered. -/
def Offers.none : Offers := { commit := [], painter := .none, report := .none }

/-- The Seat Unit after power-on reset (R36). -/
def SeatUnit.initial : SeatUnit :=
  { entries := Vector.replicate 256 (.vacant 0), sellable := Vector.replicate 64 0 }

/-- The Journal Unit after power-on reset (R58). -/
def Journal.initial : Journal :=
  { tail := 0, lap := .one, marks := Vector.replicate 64 false, fetch := .none, gapStart := none }

/-- The Lobby Clock after power-on reset (R75). -/
def Clock.initial : Clock :=
  { running := false, acc := 0, step := none, ticks := 0, sub := 0, now := 0, secondsDue := 0, withheld := 0,
    pendingSet := none }

/-- The empty Due List (R75). -/
def DueList.empty : DueList := { list := [], batch := [] }

/-- The Roster Unit after power-on reset (R95). -/
def RosterUnit.initial : RosterUnit :=
  { layouts := Vector.replicate 24 .empty
    titles := Vector.replicate 64 .empty
    rosters := Vector.replicate 24 []
    assign := Vector.replicate 24 (Vector.replicate 16 none)
    shown := Vector.replicate 24 (Vector.replicate 16 none)
    targets := Vector.replicate 24 (Vector.replicate 16 (Vector.replicate 48 .space0)) }

/-- The Cell Painter after power-on reset (R109). -/
def Painter.initial : Painter :=
  { marks := Vector.replicate 24 (Vector.replicate 16 (Vector.replicate 48 .clear))
    redraw := Vector.replicate 24 (Vector.replicate 16 false)
    queue := [], slots := [] }

/-- The Notice Unit after power-on reset (R123). -/
def NoticeUnit.initial : NoticeUnit :=
  { entries := Vector.replicate 32 .idle, counter := 0, waitList := [], cache := Vector.replicate 128 .empty,
    fetchList := [] }

/-- The Trailer Unit after power-on reset (R153). -/
def TrailerUnit.initial : TrailerUnit :=
  { streams := Vector.replicate 4 .empty
    catalog := Vector.replicate 48 .empty
    rotation := Vector.replicate 4 (Vector.replicate 32 none) }

/-- The Report Unit after power-on reset (R175). -/
def ReportUnit.initial : ReportUnit :=
  { p := 0, c := 0, overflow := false, queue := [], headerQueued := false }

/-- The part with RESET_N low: every block at its power-on values (R176), no command waiting. The level of LRST_N and
the part state while RESET_N is low are log 32 and log 3. -/
def State.reset : State :=
  { resetN := false, lrstN := true, part := .loading, decoder := .none, setup := .initial, start := .initial,
    traffic := .initial, commit := .initial, offers := .none, seats := .initial, journal := .initial,
    holds := Vector.replicate 64 none, clock := .initial, due := .empty, roster := .initial, painter := .initial,
    notices := .initial, scan := Vector.replicate 24 .idle, trailers := .initial, reports := .initial,
    memOut := [], ctlOut := [], free := 0, pending := [] }

end Sys2Proof.Machine
end

