-- ==== Sys2Proof/Machine/Tables.lean ====
section
/-! DEFINITION. Reading and writing the tables of the state: fixed numbers of like things, read and set by index. -/

namespace Sys2Proof.Machine

/-- The table whose place `i` holds `f i`. -/
def tab {n : Nat} {α : Type} (f : Fin n → α) : Vector α n := ⟨⟨List.ofFn f⟩, by simp⟩

/-- The table with place `i` set to `a`. -/
def setAt {n : Nat} {α : Type} (v : Vector α n) (i : Fin n) (a : α) : Vector α n := v.set i.val a i.isLt

/-- The table with `f` applied to place `i`. -/
def modAt {n : Nat} {α : Type} (v : Vector α n) (i : Fin n) (f : α → α) : Vector α n := setAt v i (f (v.get i))

/-- The table with `f` applied at every place. -/
def mapTab {n : Nat} {α β : Type} (v : Vector α n) (f : α → β) : Vector β n := tab fun i => f (v.get i)

/-- The value of a record table at a record. -/
def RecTable.get {α : Type} (t : RecTable α) : RecordId → α
  | .showing i => t.showing.get i
  | .notice i => t.notice.get i
  | .layout i => t.layout.get i
  | .title i => t.title.get i
  | .catalog i => t.catalog.get i
  | .rotation i => t.rotation.get i

/-- The record table with a record's value set. -/
def RecTable.set {α : Type} (t : RecTable α) (r : RecordId) (a : α) : RecTable α :=
  match r with
  | .showing i => { t with showing := setAt t.showing i a }
  | .notice i => { t with notice := setAt t.notice i a }
  | .layout i => { t with layout := setAt t.layout i a }
  | .title i => { t with title := setAt t.title i a }
  | .catalog i => { t with catalog := setAt t.catalog i a }
  | .rotation i => { t with rotation := setAt t.rotation i a }

/-- A place of a table of lines (panel, line). -/
def lineAt {α : Type} (m : Vector (Vector α 16) 24) (p : PanelIx) (l : LineIx) : α := (m.get p).get l

/-- A table of lines with one line's value set. -/
def setLine {α : Type} (m : Vector (Vector α 16) 24) (p : PanelIx) (l : LineIx) (a : α) :
    Vector (Vector α 16) 24 := setAt m p (setAt (m.get p) l a)

/-- A place of the cell mirror. -/
def cellAt {α : Type} (m : Vector (Vector (Vector α 48) 16) 24) (r : CellRef) : α :=
  ((m.get r.panel).get r.line).get r.cell

/-- A cell mirror with one place set. -/
def setCell {α : Type} (m : Vector (Vector (Vector α 48) 16) 24) (r : CellRef) (a : α) :
    Vector (Vector (Vector α 48) 16) 24 :=
  setAt m r.panel (setAt (m.get r.panel) r.line (setAt ((m.get r.panel).get r.line) r.cell a))

/-- Insertion into a list ordered by `le`, after every entry that may stand before the new one. -/
def insertBy {α : Type} (le : α → α → Bool) (a : α) : List α → List α
  | [] => [a]
  | b :: bs => if le b a then b :: insertBy le a bs else a :: b :: bs

/-- A list put in the order of `le`; entries that tie keep their order. -/
def sortBy {α : Type} (le : α → α → Bool) (l : List α) : List α :=
  l.foldl (fun acc a => insertBy le a acc) []

/-- The distinct entries of a list, in the order of their first appearance. -/
def distinct {α : Type} [DecidableEq α] (l : List α) : List α :=
  l.foldl (fun acc a => if a ∈ acc then acc else acc ++ [a]) []

/-- The value a list of numbered results holds for a number. -/
def resultOf {α : Type} (l : List (Nat × α)) (k : Nat) : Option α :=
  (l.find? fun e => e.1 == k).map (·.2)

end Sys2Proof.Machine
end

