-- ==== Sys2Proof/Machine/Operands.lean ====
section
/-! DEFINITION. The operand forms: how fields lie in the bytes of records and bursts (00 section 6.1, Chapter 13), and
the codes of R182 and R188. -/

namespace Sys2Proof.Machine

/-! ### Little-endian fields (00 section 6.1) -/

/-- The byte at an offset of a record. Every record is read from data of the record's own length. -/
def byteAt (bs : List Byte) (i : Nat) : Byte := bs.getD i 0

/-- A one-byte field. -/
def u8 (bs : List Byte) (i : Nat) : Nat := (byteAt bs i).toNat

/-- A two-byte field. -/
def u16 (bs : List Byte) (i : Nat) : Nat := u8 bs i + 256 * u8 bs (i + 1)

/-- A three-byte field. -/
def u24 (bs : List Byte) (i : Nat) : Nat := u16 bs i + 65536 * u8 bs (i + 2)

/-- A four-byte field. -/
def u32 (bs : List Byte) (i : Nat) : Nat := u16 bs i + 65536 * u16 bs (i + 2)

/-- A flag field counts as set when its byte is nonzero (R182). -/
def flagAt (bs : List Byte) (i : Nat) : Bool := byteAt bs i != 0

/-- The bytes of a record from an offset. -/
def slice (bs : List Byte) (off n : Nat) : List Byte := (bs.drop off).take n

/-- A number as one byte. -/
def le8 (n : Nat) : List Byte := [BitVec.ofNat 8 n]

/-- A number as two bytes, the low byte first. -/
def le16 (n : Nat) : List Byte := [BitVec.ofNat 8 n, BitVec.ofNat 8 (n / 256)]

/-- A number as three bytes, the low byte first. -/
def le24 (n : Nat) : List Byte := le16 n ++ le8 (n / 65536)

/-- A number as four bytes, the low byte first. -/
def le32 (n : Nat) : List Byte := le16 n ++ le16 (n / 65536)

/-- A field of `n` bytes: the given bytes, then zeros (R188). -/
def padTo (n : Nat) (bs : List Byte) : List Byte := (bs ++ List.replicate n 0).take n

/-- A pixel as records hold it: B, G, R, A (R185). -/
def pixelAt (bs : List Byte) (i : Nat) : Pixel :=
  { b := byteAt bs i, g := byteAt bs (i + 1), r := byteAt bs (i + 2), a := byteAt bs (i + 3) }

/-- The four bytes of a pixel in address order. -/
def Pixel.bytes (p : Pixel) : List Byte := [p.b, p.g, p.r, p.a]

/-- An index field whose values outside its range are none (R182). -/
def indexOrNone (n v : Nat) : Option (Fin n) := if h : v < n then some ⟨v, h⟩ else none

/-- The byte written for an index that may be none: 255 for none (R182). -/
def noneOr255 {n : Nat} (i : Option (Fin n)) : Byte :=
  match i with
  | some k => BitVec.ofNat 8 k.val
  | none => 255

/-! ### Codes (R182, R188) -/

/-- The written code of a phase. -/
def Phase.code : Phase → Nat
  | .vacant => 0
  | .onSale => 1
  | .lastCall => 2
  | .started => 3
  | .closed => 4
  | .cancelled => 5

/-- The written code of a lap. -/
def Lap.code : Lap → Nat
  | .one => 1
  | .two => 2

/-- The other lap. -/
def Lap.other : Lap → Lap
  | .one => .two
  | .two => .one

/-- The lap a header byte names, if any. -/
def lapOf (v : Nat) : Option Lap := if v = 1 then some .one else if v = 2 then some .two else none

/-- The written code of a notice kind. -/
def NoticeKind.code : NoticeKind → Nat
  | .line => 1
  | .banner => 2

/-- The containment mode a code names. -/
def modeOf (v : Nat) : Option ContainMode :=
  if v = 1 then some .report else if v = 2 then some .quiet else if v = 3 then some .transparent else none

/-- The line kind a code names. -/
def lineKindOf (v : Nat) : Option LineKind :=
  match v with
  | 0 => some .unused
  | 1 => some .rosterWide
  | 2 => some .rosterNarrow
  | 3 => some .notice
  | 4 => some .clock
  | 5 => some .trailer
  | _ => none

/-- The journal actions (R182). -/
inductive Action where
  | sell
  | refund
  | hold
  | convert
  | release
  deriving DecidableEq, Repr

/-- The journal action a code names. -/
def actionOf (v : Nat) : Option Action :=
  match v with
  | 1 => some .sell
  | 2 => some .refund
  | 3 => some .hold
  | 4 => some .convert
  | 5 => some .release
  | _ => none

/-- The code of a report kind (R188). -/
def ReportKind.code : ReportKind → Nat
  | .ready => 1
  | .showingRefused => 2
  | .soldOut => 3
  | .lateRecord => 4
  | .journalGap => 5
  | .journalBad => 6
  | .saleRefused => 7
  | .saleClamped => 8
  | .holdRefused => 9
  | .convertLate => 10
  | .releaseUnknown => 11
  | .holdExpired => 12
  | .timeSet => 13
  | .layoutRefused => 14
  | .paintFault => 15
  | .noticeRefused => 16
  | .noticeExpired => 17
  | .bannerWaiting => 18
  | .glyphFault => 19
  | .tear => 21
  | .catalogRefused => 22
  | .trailerCue => 23
  | .partialWrite => 24
  | .tagReused => 25
  | .hostTimeout => 26
  | .memoryFault => 27
  | .refundClamped => 28
  | .holdShort => 29

/-- The 16 bytes of a report record (R188, R189). -/
def Report.bytes (r : Report) : List Byte :=
  le8 r.kind.code ++ le24 r.time.toNat ++ padTo 4 r.subject ++ padTo 8 r.detail

/-- The class codes of R188, in the order of the table of R1. -/
def ReqClass.code : ReqClass → Nat
  | .windowRecord _ _ => 0
  | .windowUnused _ => 1
  | .setup _ => 2
  | .panelFrame _ _ _ => 3
  | .slotPixels _ _ _ _ => 4
  | .slotTag _ _ => 5
  | .pass => 6

/-- The requester codes of R188. -/
def Requester.code : Requester → Nat
  | .start => 1
  | .commit => 2
  | .painter => 3
  | .notice => 4
  | .report => 5

/-- A request's kind in a report: 0 for read and 1 for write (R188). -/
def kindCode (isWrite : Bool) : Nat := if isWrite then 1 else 0

/-! ### Bursts -/

/-- A read of `beats` beats. -/
def readBurst (addr beats : Nat) : Burst :=
  { isWrite := false, addr := BitVec.ofNat 32 addr, beats := beats, lanes := [] }

/-- A write of whole beats from lanes. -/
def writeBurst (addr : Nat) (lanes : List (Option Byte)) : Burst :=
  { isWrite := true, addr := BitVec.ofNat 32 addr, beats := lanes.length / 8, lanes := lanes }

/-- The value that a write enables at a byte address, if it enables that byte. -/
def laneAt (b : Burst) (a : Nat) : Option Byte :=
  if a < b.addr.toNat then none else (b.lanes.getD (a - b.addr.toNat) none)

/-- The values of `n` bytes from an address, if the write enables them all. -/
def lanesAt (b : Burst) (a n : Nat) : Option (List Byte) :=
  (List.range n).foldr (fun i acc =>
    match laneAt b (a + i), acc with
    | some v, some vs => some (v :: vs)
    | _, _ => none) (some [])

/-- The 128-byte block of an address (00 section 6.3). -/
def blockOf (a : BitVec 32) : Nat := a.toNat / 128

/-! ### Records (R183 to R186) -/

/-- A fetched showing record (R184). -/
structure ShowingRec where
  title    : Nat
  hall     : Nat
  intent   : Nat
  start    : Nat
  capacity : Nat
  deriving DecidableEq, Repr

/-- The host-owned bytes of a showing record. -/
def showingRec (bs : List Byte) : ShowingRec :=
  { title := u8 bs 0, hall := u8 bs 1, intent := u8 bs 2, start := u32 bs 4, capacity := u16 bs 8 }

/-- A fetched journal record (R184). -/
structure JournalRec where
  showing : ShowingIx
  action  : Nat
  seats   : Nat
  desk    : Nat
  token   : BitVec 16
  life    : Nat
  deriving DecidableEq, Repr

/-- The bytes of a journal record; every showing byte names a showing (R44). -/
def journalRec (bs : List Byte) : JournalRec :=
  { showing := (byteAt bs 0).toFin, action := u8 bs 1, seats := u8 bs 2, desk := u8 bs 3,
    token := BitVec.ofNat 16 (u16 bs 4), life := u16 bs 6 }

/-- A fetched notice record (R185), before its checks. -/
structure NoticeRec where
  text     : List Byte
  kind     : Nat
  priority : Nat
  length   : Nat
  intent   : Nat
  mask     : BitVec 24
  lifetime : Nat
  deriving DecidableEq, Repr

/-- The bytes of a notice record. -/
def noticeRec (bs : List Byte) : NoticeRec :=
  { text := slice bs 0 48, kind := u8 bs 48, priority := u8 bs 49, length := u8 bs 50, intent := u8 bs 51,
    mask := BitVec.ofNat 24 (u24 bs 52), lifetime := u16 bs 56 }

/-- The title of a title entry; a length above 28 is taken as 28 (R81). -/
def titleRec (bs : List Byte) : Title := { text := slice bs 0 28, length := min (u8 bs 28) 28 }

/-- A line descriptor as read, before its checks (R185). -/
structure RawLine where
  kind    : Nat
  rank    : Nat
  x       : Nat
  y       : Nat
  width   : Nat
  normal  : Nat
  alt     : Nat
  soldOut : Nat
  started : Nat
  stream  : Nat
  deriving DecidableEq, Repr

/-- Line descriptor `n` of a layout record. -/
def rawLine (bs : List Byte) (n : Nat) : RawLine :=
  let o := 128 + 16 * n
  { kind := u8 bs o, rank := u8 bs (o + 1), x := u16 bs (o + 2), y := u16 bs (o + 4), width := u8 bs (o + 6),
    normal := u8 bs (o + 7), alt := u8 bs (o + 8), soldOut := u8 bs (o + 9), started := u8 bs (o + 10),
    stream := u8 bs (o + 11) }

/-- A pair index that has passed its range check. -/
def pairIx (v : Nat) : PairIx := Fin.ofNat 16 v

/-- The line descriptor a checked raw line stands for; a descriptor of kind UNUSED has every other field ignored
(R76). -/
def lineOf (r : RawLine) : Line :=
  match lineKindOf r.kind with
  | some .unused => .unused
  | some k =>
    { kind := k, rank := r.rank, x := r.x, y := r.y, width := r.width, normal := pairIx r.normal, alt := pairIx r.alt,
      soldOut := pairIx r.soldOut, started := pairIx r.started, stream := Fin.ofNat 4 r.stream }
  | none => .unused

/-- The banner spec of a layout record. -/
def bannerSpecOf (bs : List Byte) : BannerSpec :=
  { enabled := flagAt bs 384, dim := u8 bs 385, x := u16 bs 386, y := u16 bs 388, fg := pixelAt bs 392,
    bg := pixelAt bs 396 }

/-- The roster filter of a layout record, with F, Q and H clamped as R76 states. -/
def filterOf (bs : List Byte) : Filter :=
  let q := max 1 (min (u8 bs 407) 100)
  { halls := BitVec.ofNat 32 (u32 bs 400), inclStarted := flagAt bs 404, skipSoldOut := flagAt bs 405,
    f := min (u8 bs 406) 99, q := q, h := min (u8 bs 408) (q - 1) }

/-- The layout a checked layout record stands for (R76). -/
def layoutOf (bs : List Byte) : Layout :=
  { palette := tab fun k => { fg := pixelAt bs (8 * k.val), bg := pixelAt bs (8 * k.val + 4) }
    lines := tab fun n => lineOf (rawLine bs n.val)
    banner := bannerSpecOf bs
    filter := filterOf bs }

/-- A catalog entry as read (R186). -/
structure CatalogRec where
  enabled : Nat
  linked  : Nat
  frames  : Nat
  deriving DecidableEq, Repr

/-- The bytes of a catalog entry. -/
def catalogRec (bs : List Byte) : CatalogRec := { enabled := u8 bs 0, linked := u8 bs 1, frames := u16 bs 2 }

/-- The 32 phases of a rotation table (R147). -/
def rotationRec (bs : List Byte) : Vector (Option CatalogIx) 32 := tab fun k => indexOrNone 48 (u8 bs k.val)

/-- The mask bit of a row of a glyph, counted from the left (R185, R131). -/
def glyphBit (mask : List Byte) (row k : Nat) : Bool :=
  (byteAt mask (2 * row + k / 8)).getLsbD (7 - k % 8)

end Sys2Proof.Machine
end

