-- ==== Sys2Proof/Machine/Decoder.lean ====
section
/-! DEFINITION. The Window Decoder (section 1.1): the class of every address, where records lie, which bytes are
commit bytes and observed fields (R7 to R11), and the current values of the part-owned bytes (R3, R4). -/

namespace Sys2Proof.Machine

/-! ### Windows -/

/-- The base of a window. -/
def Windows.base (w : Windows) : Window → Nat
  | .showings => w.showings
  | .journal => w.journal
  | .notices => w.notices
  | .layouts => w.layouts
  | .text => w.text
  | .trailers => w.trailers
  | .reports => w.reports

/-- The size of a window (00 section 4). -/
def Window.size : Window → Nat
  | .showings => 16384
  | .journal => 2048
  | .notices => 2048
  | .layouts => 16384
  | .text => 32768
  | .trailers => 4096
  | .reports => 2048

/-- The seven windows in the order of R183. -/
def Window.all : List Window := [.showings, .journal, .notices, .layouts, .text, .trailers, .reports]

/-- The used areas of the windows (R1). -/
def Window.used (w : Window) (off : Nat) : Bool :=
  match w with
  | .showings => off < 16384
  | .journal => off < 1088
  | .notices => off < 2048
  | .layouts => off < 12288
  | .text => off < 18432
  | .trailers => off < 768 || (1024 ≤ off && off < 1280) || (2048 ≤ off && off < 2112)
  | .reports => off < 1088

/-- The base of the Setup Block, SBASE[2:0] × 512 MiB (R183), once SBASE has been sampled. -/
def State.setupBase (s : State) : Nat :=
  match s.start.sbase with
  | some b => b.toNat * 536870912
  | none => 0

/-- The bytes of a panel's frame (R1). -/
def PanelGeom.size (g : PanelGeom) : Nat := g.height * g.stride

/-- The bytes of a slot's pixel area (R1); its tag block follows. -/
def StreamDesc.area (d : StreamDesc) : Nat := d.height * d.stride

/-- Whether an address lies in a range. -/
def inRange (a base size : Nat) : Bool := base ≤ a && a < base + size

/-! ### Classes (R1, R2) -/

/-- The window class of an address, if it lies in a window. -/
def windowClass (s : State) (a : Nat) : Option ReqClass :=
  Window.all.findSome? fun w =>
    let b := s.setup.windows.base w
    if inRange a b w.size then
      some (if w.used (a - b) then .windowRecord w (a - b) else .windowUnused w)
    else none

/-- The Setup Block class of an address, if it lies in the Setup Block. -/
def setupClass (s : State) (a : Nat) : Option ReqClass :=
  if inRange a s.setupBase 4096 then some (.setup (a - s.setupBase)) else none

/-- The panel frame class of an address, if it lies in the frame of an enabled panel. -/
def panelClass (s : State) (a : Nat) : Option ReqClass :=
  (List.finRange 24).findSome? fun p =>
    let g := s.setup.panels.get p
    if g.enabled && inRange a g.base g.size then
      some (.panelFrame p ((a - g.base) / g.stride) ((a - g.base) % g.stride))
    else none

/-- The slot class of an address, if it lies in a slot of an enabled stream or in its tag block. -/
def slotClass (s : State) (a : Nat) : Option ReqClass :=
  (List.finRange 4).findSome? fun st =>
    let d := s.setup.streams.get st
    if d.enabled then
      (List.finRange 4).findSome? fun k =>
        let b := d.slots.get k
        if inRange a b d.area then some (.slotPixels st k ((a - b) / d.stride) ((a - b) % d.stride))
        else if inRange a (b + d.area) 128 then some (.slotTag st k)
        else none
    else none

/-- The class of an address (R1). In LOADING the decoder holds no range, and after a refused load the Setup Block's
alone. -/
def classify (s : State) (a : Nat) : ReqClass :=
  match s.decoder with
  | .none => .pass
  | .setupOnly => (setupClass s a).getD .pass
  | .all =>
    ((windowClass s a).orElse fun _ => (setupClass s a).orElse fun _ =>
      (panelClass s a).orElse fun _ => slotClass s a).getD .pass

/-! ### Where records lie -/

/-- The address of a committable record (R184 to R186). -/
def recordAddr (s : State) : RecordId → Nat
  | .showing i => s.setup.windows.showings + 64 * i.val
  | .notice i => s.setup.windows.notices + 64 * i.val
  | .layout i => s.setup.windows.layouts + 512 * i.val
  | .title i => s.setup.windows.text + 16384 + 32 * i.val
  | .catalog i => s.setup.windows.trailers + 16 * i.val
  | .rotation i => s.setup.windows.trailers + 1024 + 64 * i.val

/-- The bursts of a record's fetch (R12): how many, and how many beats each has. -/
def fetchShape : RecordId → Nat × Nat
  | .showing _ => (1, 4)
  | .notice _ => (1, 8)
  | .layout _ => (4, 16)
  | .title _ => (1, 4)
  | .catalog _ => (1, 2)
  | .rotation _ => (1, 8)

/-- The read of one burst of a record's fetch. -/
def fetchBurst (s : State) (r : RecordId) (k : Nat) : Burst := readBurst (recordAddr s r + 128 * k) (fetchShape r).2

/-- The address of a glyph in the glyph store (R185). -/
def glyphAddr (s : State) (code : Byte) : Nat := s.setup.windows.text + 64 * code.toNat

/-- The address of a frame tag: the block after the slot's pixel area (R2). -/
def tagAddr (s : State) (st : StreamIx) (k : FrameIx) : Nat :=
  (s.setup.streams.get st).slots.get k + (s.setup.streams.get st).area

/-- The address of the time-set word (R183). -/
def timeSetAddr (s : State) : Nat := s.setupBase + 3976

/-! ### Commit bytes and observed fields (R6 to R11) -/

/-- What a written byte at a window offset commits, if anything (R7, R8, R11). -/
def windowItem (w : Window) (off : Nat) (v : Byte) : Option CommitItem :=
  match w with
  | .showings => if off % 64 = 31 then (indexOrNone 256 (off / 64)).map (fun i => .revision (.showing i) v) else none
  | .journal =>
    if 64 ≤ off ∧ off < 1088 ∧ off % 16 = 15 then (indexOrNone 64 ((off - 64) / 16)).map (fun i => .lap i v) else none
  | .notices => if off % 64 = 63 then (indexOrNone 32 (off / 64)).map (fun i => .revision (.notice i) v) else none
  | .layouts => if off % 512 = 511 then (indexOrNone 24 (off / 512)).map (fun i => .revision (.layout i) v) else none
  | .text =>
    if 16384 ≤ off ∧ off % 32 = 31 then
      (indexOrNone 64 ((off - 16384) / 32)).map (fun i => .revision (.title i) v)
    else none
  | .trailers =>
    if off < 768 then
      if off % 16 = 15 then (indexOrNone 48 (off / 16)).map (fun i => .revision (.catalog i) v) else none
    else if 1024 ≤ off ∧ off < 1280 ∧ off % 64 = 63 then
      (indexOrNone 4 ((off - 1024) / 64)).map (fun i => .revision (.rotation i) v)
    else none
  | .reports => if off = 1 then some (.overflow v) else if off = 8 then some (.consumer v) else none

/-- The commit bytes and observed fields that a write covers, in ascending address order (R6). -/
def coveredItems (s : State) (cls : ReqClass) (b : Burst) : List CommitItem :=
  let a := b.addr.toNat
  match cls with
  | .windowRecord w off =>
    (List.range (8 * b.beats)).filterMap fun i => (laneAt b (a + i)).bind fun v => windowItem w (off + i) v
  | .setup off =>
    (List.range (8 * b.beats)).filterMap fun i => (laneAt b (a + i)).bind fun v =>
      if off + i = 3968 then some (.restart v)
      else if off + i = 3980 then some (.timeSet v (lanesAt b (a + i - 4) 4))
      else none
  | .slotTag st k =>
    let t := tagAddr s st k
    match laneAt b (t + 7) with
    | some _ => [.tag st k t (lanesAt b t 8)]
    | none => []
  | _ => []

/-! ### Part-owned bytes (R3, R4, R34, R39, R145, R187) -/

/-- Bytes 32–47 of a showing record (R34, R184): bytes 33 and 44–47 are reserved and zero. -/
def seatBytes (e : Seat) : List Byte :=
  le8 e.phase.code ++ [0] ++ le16 e.left ++ le16 e.sold ++ le16 e.held ++ le32 e.changed.toNat ++ [0, 0, 0, 0]

/-- The tail and lap bytes of the journal header (R39). -/
def journalHeaderBytes (j : Journal) : List Byte := le8 j.tail.val ++ le8 j.lap.code

/-- The producer index and overflow byte of the report header (R187). -/
def reportHeaderBytes (r : ReportUnit) : List Byte := le8 r.p.toNat ++ le8 (if r.overflow then 1 else 0)

/-- The slot presented by a stream: the one with the newest mark (R140). -/
def presented (st : Stream) : Option FrameIx := (List.finRange 4).find? fun k => (st.slots.get k).newest

/-- The free-slot set of a stream: bit k for slot k (R186). -/
def freeSet (st : Stream) : Nat :=
  (List.finRange 4).foldl (fun n k => if (st.slots.get k).state = .free then n + 2 ^ k.val else n) 0

/-- The 16 bytes of a stream status word (R145, R186). A disabled stream shows an empty free set and none. -/
def statusBytes (s : State) (i : StreamIx) : List Byte :=
  let st := s.trailers.streams.get i
  let en := (s.setup.streams.get i).enabled
  padTo 16 [BitVec.ofNat 8 (if en then freeSet st else 0), noneOr255 (if en then presented st else none),
    noneOr255 (if en then st.current else none), noneOr255 (if en then st.cued else none)]

/-- The current value of the part-owned byte at a window offset, if that byte is part-owned (R3). -/
def ownedByte (s : State) (w : Window) (off : Nat) : Option Byte :=
  match w with
  | .showings =>
    if 32 ≤ off % 64 ∧ off % 64 < 48 then
      (indexOrNone 256 (off / 64)).map fun i => byteAt (seatBytes (s.seats.entries.get i)) (off % 64 - 32)
    else none
  | .journal => if off < 2 then some (byteAt (journalHeaderBytes s.journal) off) else none
  | .reports => if off < 2 then some (byteAt (reportHeaderBytes s.reports) off) else none
  | .trailers =>
    if 2048 ≤ off ∧ off < 2112 then
      (indexOrNone 4 ((off - 2048) / 16)).map fun i => byteAt (statusBytes s i) (off % 16)
    else none
  | _ => none

/-- One lane of a window write with its part-owned byte replaced (R4). A 0 written to the report overflow byte passes
through. -/
def substituteLane (s : State) (w : Window) (off : Nat) (lane : Option Byte) : Option Byte :=
  match lane, ownedByte s w off with
  | some v, some cur => if w = .reports ∧ off = 1 ∧ v = 0 then some 0 else some cur
  | lane, _ => lane

/-- The lanes of a window write with its part-owned bytes replaced (R4). -/
def substituteLanes (s : State) (w : Window) (off : Nat) (lanes : List (Option Byte)) : List (Option Byte) :=
  lanes.mapIdx fun i lane => substituteLane s w (off + i) lane

/-- The lanes a controller write is forwarded with. Substitution is done in RUNNING and QUIET (R4). -/
def forwardedLanes (s : State) (cls : ReqClass) (b : Burst) : List (Option Byte) :=
  match cls with
  | .windowRecord w off =>
    if s.part = .running ∨ s.part = .quiet then substituteLanes s w off b.lanes else b.lanes
  | _ => b.lanes

end Sys2Proof.Machine
end

