-- ==== Sys2Proof/Machine/Flags.lean ====
section
/-! DEFINITION. The status of the part: the attention line, the conditions on the part state, the timers that have
expired, and the marks that other rules read. -/

namespace Sys2Proof.Machine

/-- RUNNING or QUIET: the states in which commits are taken and records handed over (R17, R35, R57, R122, R152). -/
def State.active (s : State) : Bool := s.part == .running || s.part == .quiet

/-- BUILDING or RESTARTING: the states in which the tables are read and seconds are withheld (R63). -/
def State.rebuilding (s : State) : Bool := s.part == .building || s.part == .restarting

/-- The ATTN_N line (R170): low while P differs from C, or the part is QUIET or TRANSPARENT; otherwise high. -/
def State.attnN (s : State) : Bool := !(s.reports.p != s.reports.c || s.part == .quiet || s.part == .transparent)

/-- The length of the response timer in REFCLK cycles (R159): 2,000 while no NCO step is in force. -/
def State.timerLength (s : State) : Nat :=
  match s.clock.step with
  | some st => 4294967296 / (250 * st.toNat)
  | none => 2000

/-- Whether a response timer that started at `started` has expired (R159). -/
def State.timerExpired (s : State) (started : Nat) : Bool := s.timerLength ≤ s.traffic.cycles - started

/-- Whether a centi-tick timer of length `len` that noted `start` has expired (R61). -/
def ticksExpired (now start : Ticks) (len : Nat) : Bool := len ≤ (now - start).toNat

/-- The room of the report ring (R166). -/
def ReportUnit.room (r : ReportUnit) : Nat := 63 - (r.p - r.c).toNat - r.queue.length

/-- Whether a write to the block of an address is outstanding (R162). -/
def hazard (s : State) (a : BitVec 32) : Bool :=
  (List.finRange 128).any fun t =>
    match s.traffic.tags.get t with
    | some u => u.isWrite && blockOf u.addr == blockOf a
    | none => false

/-- The lowest free memory tag of 64–127 (R158). -/
def freeOwnTag (s : State) : Option MemTag :=
  (List.finRange 128).find? fun t => 64 ≤ t.val && (s.traffic.tags.get t).isNone

/-- Whether a tag holds an own request that its timer has not ended. -/
def awaited (u : Option TagUse) : Bool :=
  match u with
  | some { holder := .own _ _ .live, .. } => true
  | some { holder := .own _ _ .dropped, .. } => true
  | _ => false

/-- Whether some own request is outstanding, that is, neither answered nor timed out (R181). -/
def ownOutstanding (s : State) : Bool := (List.finRange 128).any fun t => awaited (s.traffic.tags.get t)

/-- How many live own requests are for a purpose that `f` picks. -/
def liveCount (s : State) (f : OwnPurpose → Bool) : Nat :=
  (List.finRange 128).countP fun t =>
    match s.traffic.tags.get t with
    | some { holder := .own p _ .live, .. } => f p
    | _ => false

/-- Whether a purpose is a write-back of the Commit Unit. -/
def OwnPurpose.isWriteBack : OwnPurpose → Bool
  | .writeBack _ => true
  | _ => false

/-- Whether a purpose is a banner glyph fetch. -/
def OwnPurpose.isGlyphFetch : OwnPurpose → Bool
  | .glyphFetch _ => true
  | _ => false

/-- Whether a purpose is a Report Unit write. -/
def OwnPurpose.isReport : OwnPurpose → Bool
  | .reportRecord => true
  | .reportHeader => true
  | _ => false

/-- The requester of an own request (R163). -/
def OwnPurpose.requester : OwnPurpose → Requester
  | .setupRead _ => .start
  | .buildRead _ => .start
  | .commitFetch _ _ => .commit
  | .journalFetch => .commit
  | .writeBack _ => .commit
  | .glyphRead _ => .painter
  | .rowWrite _ _ => .painter
  | .glyphFetch _ => .notice
  | .reportRecord => .report
  | .reportHeader => .report

/-- A slot's expected marker (R39): the lap at or above the tail, the other lap below it. -/
def expectedLap (j : Journal) (i : JournalIx) : Lap := if j.tail.val ≤ i.val then j.lap else j.lap.other

/-- The gap condition (R46): the tail slot's mark is clear and another slot's mark is set. -/
def gapCondition (j : Journal) : Bool :=
  !j.marks.get j.tail && (List.finRange 64).any fun i => j.marks.get i

/-- The write-back-pending mark of a seat entry (R20): set while the showing is in its write-back queue. -/
def writeBackPending (s : State) (i : ShowingIx) : Bool := i ∈ s.commit.wbShowings

/-- Whether a line's kind is one of the text lines (R77). -/
def LineKind.isText : LineKind → Bool
  | .rosterWide => true
  | .rosterNarrow => true
  | .notice => true
  | .clock => true
  | .unused => false
  | .trailer => false

/-- Whether a line is a roster line. -/
def LineKind.isRoster : LineKind → Bool
  | .rosterWide => true
  | .rosterNarrow => true
  | _ => false

/-- The cells of a line (R77). -/
def Line.cells (l : Line) : Nat :=
  match l.kind with
  | .rosterWide => 48
  | .rosterNarrow => 16
  | .clock => 5
  | .notice => l.width
  | .unused => 0
  | .trailer => 0

/-- A line descriptor of a panel's layout in force. -/
def State.line (s : State) (p : PanelIx) (l : LineIx) : Line := (s.roster.layouts.get p).lines.get l

/-- Whether a place is a cell of its panel's layout in force (section 6.1). -/
def isCell (s : State) (r : CellRef) : Bool := r.cell.val < (s.line r.panel r.line).cells

/-- Whether a cell is stale: its target differs from its painted content (R96). -/
def stale (s : State) (r : CellRef) : Bool :=
  (cellAt s.painter.marks r).painted != some (cellAt s.roster.targets r)

end Sys2Proof.Machine
end

