-- ==== Sys2Proof/Machine/Ops.lean ====
section
/-! DEFINITION. The operations every block shares: raising a report, drawing a free value, marking a record for
write-back, and putting requests and responses on the ports. -/

namespace Sys2Proof.Machine

/-! ### Reports (R166) -/

/-- Setting the overflow flag: from clear to set it marks the report header for write-back (R166). -/
def ReportUnit.setOverflow (r : ReportUnit) : ReportUnit :=
  { r with overflow := true, headerQueued := r.headerQueued || !r.overflow }

/-- Taking a raised record (R166): it joins the queue while there is room, and is dropped with the overflow flag set
otherwise; in LOADING and TRANSPARENT it is discarded. -/
def ReportUnit.accept (r : ReportUnit) (part : PartState) (rep : Report) : ReportUnit :=
  if part = .loading ∨ part = .transparent then r
  else if 0 < r.room then { r with queue := r.queue ++ [rep] }
  else r.setOverflow

/-- A report is raised, with the lobby seconds of the moment (R166). -/
def raise (s : State) (k : ReportKind) (subject detail : List Byte) : State :=
  { s with reports :=
      s.reports.accept s.part { kind := k, time := s.clock.now, subject := subject, detail := detail } }

/-! ### Free values (log 15) -/

/-- The next free byte. -/
def freeByteOf (s : State) : Byte := Config.freeByte s.free

/-- The state after `n` free bytes have been drawn. -/
def drawFree (s : State) (n : Nat) : State := { s with free := s.free + n }

/-- The next `n` free bytes. -/
def freeRun (s : State) (n : Nat) : List Byte := (List.range n).map fun k => Config.freeByte (s.free + k)

/-! ### Write-back marks (R14) -/

/-- A queue with an entry joined at its tail, unless it is already there. -/
def joinOnce {α : Type} [DecidableEq α] (l : List α) (a : α) : List α := if a ∈ l then l else l ++ [a]

/-- A showing is marked for write-back. -/
def markShowing (s : State) (i : ShowingIx) : State :=
  { s with commit := { s.commit with wbShowings := joinOnce s.commit.wbShowings i } }

/-- The journal header is marked for write-back. -/
def markJournal (s : State) : State := { s with commit := { s.commit with wbJournal := true } }

/-- A stream status word is marked for write-back. -/
def markStream (s : State) (i : StreamIx) : State :=
  { s with commit := { s.commit with wbStreams := joinOnce s.commit.wbStreams i } }

/-- The report header is marked for write-back. -/
def markReportHeader (s : State) : State := { s with reports := { s.reports with headerQueued := true } }

/-! ### The ports (section 10.1) -/

/-- A response is returned on the controller port. -/
def respond (s : State) (tag : CtlTag) (st : Status) (data : List Byte) : State :=
  { s with ctlOut := s.ctlOut ++ [{ tag := tag, status := st, data := data }] }

/-- The data beats of a FAULT that the part itself answers: a read's response carries its beats (section 10.1), of
bytes that the manual leaves unstated (log 15). -/
def faultBytes (b : Burst) : Nat := if b.isWrite then 0 else 8 * b.beats

/-- A request is answered FAULT by the part itself (R156, R159). -/
def respondFault (s : State) (tag : CtlTag) (b : Burst) : State :=
  respond (drawFree s (faultBytes b)) tag .fault (freeRun s (faultBytes b))

/-- A request is issued on the memory port: its tag is reserved until memory answers (R158). -/
def issue (s : State) (tag : MemTag) (b : Burst) (h : Holder) : State :=
  { s with
    traffic := { s.traffic with
      tags := setAt s.traffic.tags tag
        (some { addr := b.addr, isWrite := b.isWrite, beats := b.beats, holder := h }) }
    memOut := s.memOut ++ [{ tag := tag, burst := b }] }

/-- A memory tag's reservation ends, and with it the hazard entry of its block (R160). -/
def freeTag (s : State) (tag : MemTag) : State :=
  { s with traffic := { s.traffic with tags := setAt s.traffic.tags tag none } }

/-- What a reserved tag belongs to is changed; its reservation and its hazard entry stay (R159, R161). -/
def setHolder (s : State) (tag : MemTag) (h : Holder) : State :=
  { s with traffic := { s.traffic with
      tags := modAt s.traffic.tags tag (fun u => u.map fun v => { v with holder := h }) } }

/-- An in-flight entry is set or freed (R156). -/
def setEntry (s : State) (tag : CtlTag) (e : Option InFlight) : State :=
  { s with traffic := { s.traffic with inflight := setAt s.traffic.inflight tag e } }

/-- The memory tag of a forwarded controller request (R158). -/
def memTagOf (t : CtlTag) : MemTag := ⟨t.val, by omega⟩

/-- The controller tag a memory tag of 0–63 carries (R158). -/
def ctlTagOf (t : MemTag) : CtlTag := Fin.ofNat 64 t.val

/-- Every live own request is awaited from now on only for its tag: its completion will be discarded (R174, R181). -/
def dropHolder (u : Option TagUse) : Option TagUse :=
  match u with
  | some { addr := a, isWrite := w, beats := n, holder := .own p t .live } =>
    some { addr := a, isWrite := w, beats := n, holder := .own p t .dropped }
  | u => u

/-- All live own requests dropped. -/
def dropOwn (s : State) : State :=
  { s with traffic := { s.traffic with tags := mapTab s.traffic.tags dropHolder } }

end Sys2Proof.Machine
end

