-- ==== Sys2Proof/Machine/Due.lean ====
section
/-! DEFINITION. Distances and the Due List (sections 4.2, 4.3, 4.6 and 4.7), and the phase times of a showing
(section 2.2). -/

namespace Sys2Proof.Machine

/-- The distance of a lobby time from now (R64). -/
def distance (now t : LobbyTime) : Nat := (t - now).toNat

/-- A time has passed when its distance is 0 or above 2^19 (R21, R64). -/
def passed (now t : LobbyTime) : Bool := distance now t == 0 || 524288 < distance now t

/-- A lobby time as many seconds after another, modulo 2^20. -/
def after (t : LobbyTime) (seconds : Nat) : LobbyTime := t + BitVec.ofNat 20 seconds

/-- An entry's place among those of a list: after every entry at its distance or nearer (R66). -/
def insertDueBy (now : LobbyTime) (e : DueEntry) (l : List DueEntry) : List DueEntry :=
  insertBy (fun a b => distance now a.time ≤ distance now b.time) e l

/-- The entries of a list less those of a kind and subject. -/
def withoutKey (k : DueKey) (l : List DueEntry) : List DueEntry := l.filter fun e => e.key != k

/-- The Due List after a removal: the entry is taken out of the list, or out of a firing batch (R67). -/
def DueList.remove (d : DueList) (k : DueKey) : DueList :=
  { list := withoutKey k d.list, batch := withoutKey k d.batch }

/-- The Due List after an insertion of a pending time: any entry of the same kind and subject goes first (R66). A
passed time makes no entry and removes none. -/
def DueList.insert (d : DueList) (now : LobbyTime) (e : DueEntry) : DueList :=
  if passed now e.time then d
  else
    let d' := d.remove e.key
    { d' with list := insertDueBy now e d'.list }

/-- The entries whose distance is `limit` or less leave the list as a firing batch, in list order, behind what is left
of an earlier batch (R68, R73). -/
def DueList.fire (d : DueList) (now : LobbyTime) (limit : Nat) : DueList :=
  { list := d.list.filter fun e => limit < distance now e.time
    batch := d.batch ++ d.list.filter fun e => distance now e.time ≤ limit }

/-- How many entries `fire` takes. -/
def DueList.fireCount (d : DueList) (now : LobbyTime) (limit : Nat) : Nat :=
  d.list.countP fun e => distance now e.time ≤ limit

/-- The due time of an entry after a backward jump of `j` seconds (R74). -/
def setBackTime (old new : LobbyTime) (j : Nat) (t : LobbyTime) : LobbyTime :=
  after new (min (distance old t + j) 524288)

/-- The Due List after a backward jump (R74). -/
def DueList.setBack (d : DueList) (old new : LobbyTime) (j : Nat) : DueList :=
  { d with list := d.list.map fun e => { e with time := setBackTime old new j e.time } }

/-- An entry is removed. -/
def removeDue (s : State) (k : DueKey) : State := { s with due := s.due.remove k }

/-- An entry is inserted, against the lobby seconds as they stand. -/
def insertDue (s : State) (k : DueKey) (target : Option Phase) (t : LobbyTime) : State :=
  { s with due := s.due.insert s.clock.now { key := k, target := target, time := t } }

/-! ### Phase times (R21, R22) -/

/-- The entry time of LAST_CALL, STARTED or CLOSED; ON_SALE has none and counts as passed (R21). -/
def entryTime (c : Setup) (start : LobbyTime) : Phase → Option LobbyTime
  | .lastCall => some (start - BitVec.ofNat 20 c.lead)
  | .started => some start
  | .closed => some (after start c.grace)
  | _ => none

/-- Whether a phase's entry time has passed. -/
def phasePassed (c : Setup) (now start : LobbyTime) (p : Phase) : Bool :=
  match entryTime c start p with
  | some t => passed now t
  | none => true

/-- The phase now gives: the last of the order whose entry time has passed (R21). -/
def phaseFromNow (c : Setup) (now start : LobbyTime) : Phase :=
  if phasePassed c now start .closed then .closed
  else if phasePassed c now start .started then .started
  else if phasePassed c now start .lastCall then .lastCall
  else .onSale

/-- The end of the chain of R22 from STARTED: the phase that stands, and its pending PHASE entry. -/
def chainFromStarted (c : Setup) (now start : LobbyTime) : Phase × Option (Phase × LobbyTime) :=
  if phasePassed c now start .closed then (.closed, none) else (.started, some (.closed, after start c.grace))

/-- The end of the chain of R22 from LAST_CALL. -/
def chainFromLastCall (c : Setup) (now start : LobbyTime) : Phase × Option (Phase × LobbyTime) :=
  if phasePassed c now start .started then chainFromStarted c now start
  else (.lastCall, some (.started, start))

/-- The end of the chain of R22 from ON_SALE. -/
def chainFromOnSale (c : Setup) (now start : LobbyTime) : Phase × Option (Phase × LobbyTime) :=
  if phasePassed c now start .lastCall then chainFromLastCall c now start
  else (.onSale, some (.lastCall, start - BitVec.ofNat 20 c.lead))

/-- The end of the chain of R22 from any phase: where the phase stands, and the PHASE entry it then has. -/
def phaseChain (c : Setup) (now start : LobbyTime) : Phase → Phase × Option (Phase × LobbyTime)
  | .onSale => chainFromOnSale c now start
  | .lastCall => chainFromLastCall c now start
  | .started => chainFromStarted c now start
  | p => (p, none)

end Sys2Proof.Machine
end

