-- ==== Sys2Proof/Machine/PaintOps.lean ====
section
/-! DEFINITION. The cell mirror and the render queue (sections 6.1, 6.2, 6.4 and 6.5): offers, the redraw-pending walk,
and what a controller write or a layout does to cells. -/

namespace Sys2Proof.Machine

/-- The marks of a place. -/
def cellMarks (s : State) (r : CellRef) : CellMarks := cellAt s.painter.marks r

/-- A place's marks are set. -/
def setMarks (s : State) (r : CellRef) (m : CellMarks) : State :=
  { s with painter := { s.painter with marks := setCell s.painter.marks r m } }

/-- A line's redraw-pending mark is set or cleared. -/
def setRedraw (s : State) (p : PanelIx) (l : LineIx) (b : Bool) : State :=
  { s with painter := { s.painter with redraw := setLine s.painter.redraw p l b } }

/-- A cell joins the tail of the render queue, or, when the queue holds 256 cells, its line is marked redraw-pending
(the last two rows of R97). -/
def enqueueCell (s : State) (r : CellRef) : State :=
  if s.painter.queue.length < 256 then
    { s with painter := { s.painter with
        queue := s.painter.queue ++ [r]
        marks := setCell s.painter.marks r { cellMarks s r with queued := true } } }
  else setRedraw s r.panel r.line true

/-- A cell is offered (R97); `byTarget` says that the offer is made by a target change. -/
def offer (s : State) (r : CellRef) (byTarget : Bool) : State :=
  let m := cellMarks s r
  if !isCell s r || !stale s r || m.queued || m.painting then s
  else if m.faulted then
    if byTarget then enqueueCell (setMarks s r { m with faulted := false }) r else s
  else enqueueCell s r

/-- The cells of a line, from cell 0. -/
def lineCells (s : State) (p : PanelIx) (l : LineIx) : List CellRef :=
  ((List.finRange 48).filter fun c => c.val < (s.line p l).cells).map fun c => { panel := p, line := l, cell := c }

/-- Whether a cell is stale and in none of the places R96 lets a stale cell be but its line's mark. -/
def leftOut (s : State) (r : CellRef) : Bool :=
  let m := cellMarks s r
  stale s r && !m.queued && !m.painting && !m.faulted

/-- The walk's visit of one marked line (R99): its stale cells join the queue while there is room; the line's mark
clears if none is left out. The flag says whether the walk goes on. -/
def walkLine (s : State) (p : PanelIx) (l : LineIx) : State × Bool :=
  let s' := (lineCells s p l).foldl (fun t r =>
    if leftOut t r && t.painter.queue.length < 256 then enqueueCell t r else t) s
  if (lineCells s' p l).any (leftOut s') then (s', false) else (setRedraw s' p l false, true)

/-- The lines of the panels in the order of R99. -/
def allLines : List (PanelIx × LineIx) :=
  (List.finRange 24).flatMap fun p => (List.finRange 16).map fun l => (p, l)

/-- The redraw-pending walk (R99). -/
def redrawWalk (s : State) : State :=
  (allLines.foldl (fun (acc : State × Bool) pl =>
    if acc.2 && lineAt acc.1.painter.redraw pl.1 pl.2 then walkLine acc.1 pl.1 pl.2 else acc) (s, true)).1

/-- The end of a rule in which the queue count fell (R98): the walk runs if the count is 128 or below. -/
def walkIfLow (s : State) : State := if s.painter.queue.length ≤ 128 then redrawWalk s else s

/-! ### The end of a paint (R103, R104, R106, R107, R109) -/

/-- A place's painting and spoiled marks clear, and its painted content becomes `c`. -/
def clearPainting (s : State) (r : CellRef) (c : Option Target) : State :=
  setMarks s r { cellMarks s r with painted := c, painting := false, spoiled := false }

/-- A place's paint ends without a content to trust: its painting and spoiled marks clear, its painted content becomes
UNKNOWN, and it is offered (R106, R107). -/
def giveUpPaint (s : State) (r : CellRef) : State := offer (clearPainting s r none) r false

/-- Every paint slot becomes FREE (R109). A painting mark says that a cell is in a slot (R96), so the places of the
slots are given up with them, as an interrupted paint gives up its place (R107). R109 names no such offer; that it is
made, and that two places are offered in the order of their takes, are the model's choice (DESIGN CHOICE, log 52). -/
def freeSlots (s : State) : State :=
  s.painter.slots.foldl (fun t p => giveUpPaint t p.ref) { s with painter := { s.painter with slots := [] } }

/-! ### Controller writes into painted text (R105) -/

/-- The pixel columns of a row that a write enables: those with an enabled byte (log 18). -/
def writtenColumns (b : Burst) (off width : Nat) : List Nat :=
  ((List.range (2 * b.beats)).filter fun i =>
    (List.range 4).any fun k => (laneAt b (b.addr.toNat + 4 * i + k)).isSome).map (fun i => off / 4 + i)
    |>.filter fun c => c < width

/-- Whether a cell's rectangle holds a row and one of the columns (R77). -/
def cellHit (ln : Line) (c : CellIx) (row : Nat) (cols : List Nat) : Bool :=
  ln.y ≤ row && row < ln.y + 32 && cols.any fun x => ln.x + 16 * c.val ≤ x && x < ln.x + 16 * c.val + 16

/-- What a controller write does to one cell it reaches (R105). -/
def spoilCell (s : State) (r : CellRef) : State :=
  let m := cellMarks s r
  if m.painting then setMarks s r { m with spoiled := true }
  else if m.faulted then s
  else offer (setMarks s r { m with painted := none }) r false

/-- A forwarded controller write into a panel's pixel columns reaches the cells it overlaps (R105). -/
def panelWrite (s : State) (p : PanelIx) (row : Nat) (cols : List Nat) : State :=
  ((List.finRange 16).flatMap fun l => (lineCells s p l).filter fun r => cellHit (s.line p l) r.cell row cols).foldl
    spoilCell s

/-! ### Layout changes (R106) -/

/-- Steps 1 to 3 of R106: the panel's cells leave the queue, its redraw-pending and faulted marks clear, and the paints
of its cells are void. -/
def clearPanel (s : State) (p : PanelIx) : State :=
  { s with painter := { s.painter with
      queue := s.painter.queue.filter fun r => r.panel != p
      redraw := setAt s.painter.redraw p (Vector.replicate 16 false)
      marks := modAt s.painter.marks p fun lines =>
        mapTab lines fun cells => mapTab cells fun m => { m with queued := false, faulted := false }
      slots := s.painter.slots.map fun t => if t.ref.panel = p then { t with void := true } else t } }

/-- The painted content of every cell of a panel's layout becomes UNKNOWN (R80 step 3). -/
def unknownPanel (s : State) (p : PanelIx) : State :=
  { s with painter := { s.painter with
      marks := modAt s.painter.marks p fun lines => tab fun l => tab fun c =>
        let m := (lines.get l).get c
        if c.val < (s.line p l).cells then { m with painted := none } else m } }

/-- Every cell of a panel's layout is offered, in line and cell order (R80 step 6). -/
def offerPanel (s : State) (p : PanelIx) : State :=
  ((List.finRange 16).flatMap fun l => lineCells s p l).foldl (fun t r => offer t r false) s

end Sys2Proof.Machine
end

