-- ==== Sys2Proof/Machine/RosterOps.lean ====
section
/-! DEFINITION. Rosters, line content and the seat figure quantizer (sections 5.4 to 5.8), and the ranking of line
notices that NOTICE lines show (R114). -/

namespace Sys2Proof.Machine

/-! ### Text (R85, R89, R90) -/

/-- The glyph code of a decimal digit. -/
def digit (n : Nat) : Byte := BitVec.ofNat 8 (48 + n % 10)

/-- A number below 1000 in decimal, without leading zeros. -/
def decimal (n : Nat) : List Byte :=
  if n < 10 then [digit n]
  else if n < 100 then [digit (n / 10), digit n]
  else [digit (n / 100), digit (n / 10), digit n]

/-- A number below 100 as two digits. -/
def twoDigits (n : Nat) : List Byte := [digit (n / 10), digit n]

/-- A text right-aligned in `n` cells (R87). -/
def rightAlign (n : Nat) (t : List Byte) : List Byte := List.replicate (n - t.length) 32 ++ t

/-- A text padded on the right with spaces to `n` cells. -/
def padRight (n : Nat) (t : List Byte) : List Byte := (t ++ List.replicate n 32).take n

/-- " LEFT" -/
def textLeft : List Byte := [32, 76, 69, 70, 84]

/-- "SOLD OUT" -/
def textSoldOut : List Byte := [83, 79, 76, 68, 32, 79, 85, 84]

/-- "STARTED" -/
def textStarted : List Byte := [83, 84, 65, 82, 84, 69, 68]

/-- The minute of the day of a lobby time (R90). -/
def minuteOfDay (origin : Nat) (t : LobbyTime) : Nat := (origin + t.toNat / 60) % 1440

/-- A lobby time as HH:MM (R90). -/
def clockText (origin : Nat) (t : LobbyTime) : List Byte :=
  let m := minuteOfDay origin t
  twoDigits (m / 60) ++ [58] ++ twoDigits (m % 60)

/-! ### The quantizer (R88) -/

/-- What the quantizer shows: a figure, whether it is rounded, and the shown figure it leaves. -/
structure Figure where
  value   : Nat
  rounded : Bool
  shown   : Option Nat
  deriving DecidableEq, Repr

/-- The rounded figure of R88. -/
def roundedFigure (f q s : Nat) : Nat := max (s / q * q) (f + 1)

/-- Whether the shown figure is kept (R88). -/
def keepsFigure (q h s p : Nat) : Bool := p ≤ s && s < p + q + h

/-- The quantizer (R88) on S seats left with the panel's F, Q and H and the line's shown figure. -/
def quantize (f q h s : Nat) (p : Option Nat) : Figure :=
  if s ≤ f then { value := s, rounded := false, shown := none }
  else
    match p with
    | some p =>
      if keepsFigure q h s p then { value := p, rounded := true, shown := some p }
      else { value := roundedFigure f q s, rounded := true, shown := some (roundedFigure f q s) }
    | none => { value := roundedFigure f q s, rounded := true, shown := some (roundedFigure f q s) }

/-- The seat text of a figure (R89). -/
def figureText (q : Nat) (g : Figure) : List Byte :=
  decimal g.value ++ (if g.rounded && 1 < q then [43] else []) ++ textLeft

/-- A seat field: its text, its pair, and the shown figure after it (R87). -/
structure SeatField where
  text  : List Byte
  pair  : PairIx
  shown : Option Nat
  deriving DecidableEq, Repr

/-- The seat field of a roster line assigned a showing (R87). -/
def seatField (ln : Line) (flt : Filter) (e : Seat) (p : Option Nat) : SeatField :=
  if e.phase = .started then { text := textStarted, pair := ln.started, shown := none }
  else if e.left = 0 then { text := textSoldOut, pair := ln.soldOut, shown := none }
  else
    let g := quantize flt.f flt.q flt.h e.left p
    { text := figureText flt.q g, pair := if e.phase = .lastCall then ln.alt else ln.normal, shown := g.shown }

/-! ### Rosters (R82, R83) -/

/-- Whether a showing is eligible for a panel's roster (R82). -/
def eligible (flt : Filter) (e : Seat) : Bool :=
  (e.phase == .onSale || e.phase == .lastCall || (e.phase == .started && flt.inclStarted))
    && flt.halls.getLsbD e.hall.val
    && (0 < e.left || !flt.skipSoldOut)

/-- The signed distance of a start from now (R83). -/
def signedDistance (now t : LobbyTime) : Int := (t - now).toInt

/-- The roster order (R83): signed distance of the start, then hall, then showing index. -/
def rosterBefore (s : State) (i j : ShowingIx) : Bool :=
  let a := s.seats.entries.get i
  let b := s.seats.entries.get j
  let da := signedDistance s.clock.now a.start
  let db := signedDistance s.clock.now b.start
  da < db || (da == db && (a.hall.val < b.hall.val || (a.hall == b.hall && i.val ≤ j.val)))

/-- Ranks 0–15 of a panel's roster (R83). -/
def rosterOf (s : State) (p : PanelIx) : List ShowingIx :=
  (sortBy (rosterBefore s) ((List.finRange 256).filter fun i =>
    eligible (s.roster.layouts.get p).filter (s.seats.entries.get i))).take 16

/-- A panel's roster is computed and its roster lines assigned; a line whose assignment changes has its shown figure
made none (R83, R84). -/
def assignRoster (s : State) (p : PanelIx) : State :=
  let ros := rosterOf s p
  let new : LineIx → Option ShowingIx := fun l =>
    if (s.line p l).kind.isRoster then ros[(s.line p l).rank]? else lineAt s.roster.assign p l
  { s with roster := { s.roster with
      rosters := setAt s.roster.rosters p ros
      assign := setAt s.roster.assign p (tab new)
      shown := setAt s.roster.shown p (tab fun l =>
        if new l = lineAt s.roster.assign p l then lineAt s.roster.shown p l else none) } }

/-! ### Line notices (R114) -/

/-- Whether a notice stands as a line notice for a panel. -/
def lineNoticeFor (n : Notice) (p : PanelIx) : Bool := n.state == .lineActive && n.fields.mask.getLsbD p.val

/-- The order of line notices and of banners offered to a pass: priority, highest first, then newest first (R114,
R121). -/
def newerFirst (u : NoticeUnit) (i j : NoticeIx) : Bool :=
  let a := u.entries.get i
  let b := u.entries.get j
  b.fields.priority < a.fields.priority || (a.fields.priority == b.fields.priority && b.seq.toNat ≤ a.seq.toNat)

/-- A panel's ranking of line notices (R114). -/
def lineRanking (u : NoticeUnit) (p : PanelIx) : List NoticeIx :=
  sortBy (newerFirst u) ((List.finRange 32).filter fun n => lineNoticeFor (u.entries.get n) p)

/-! ### Line content (R86, R87, R91, R92) -/

/-- A text in one pair. -/
def inPair (pair : PairIx) (t : List Byte) : List Target := t.map fun c => { code := c, pair := pair }

/-- The 28 title cells of a title index (R81). -/
def titleCells (s : State) (t : TitleIx) : List Byte :=
  let e := s.roster.titles.get t
  padRight 28 (e.text.take e.length)

/-- The cells of a roster line, and the shown figure it leaves (R86, R87). -/
def rosterCells (s : State) (p : PanelIx) (l : LineIx) : List Target × Option Nat :=
  let ln := s.line p l
  match lineAt s.roster.assign p l with
  | none => (inPair ln.normal (List.replicate ln.cells 32), lineAt s.roster.shown p l)
  | some i =>
    let e := s.seats.entries.get i
    let f := seatField ln (s.roster.layouts.get p).filter e (lineAt s.roster.shown p l)
    let field := inPair f.pair (rightAlign 10 f.text)
    let time := clockText s.setup.origin e.start ++ [32]
    if ln.kind = .rosterWide then
      (inPair ln.normal (time ++ titleCells s e.title ++ [32] ++ rightAlign 2 (decimal (e.hall.val + 1)) ++ [32])
        ++ field, f.shown)
    else (inPair ln.normal time ++ field, f.shown)

/-- The cells of a NOTICE line (R92). -/
def noticeCells (s : State) (p : PanelIx) (l : LineIx) : List Target :=
  let ln := s.line p l
  match (lineRanking s.notices p)[ln.rank]? with
  | none => inPair ln.normal (List.replicate ln.width 32)
  | some n =>
    let f := (s.notices.entries.get n).fields
    inPair (if 6 ≤ f.priority then ln.alt else ln.normal) (padRight ln.width (f.text.take (min f.length ln.width)))

/-- A line's cells get their targets, from cell 0. -/
def storeTargets (s : State) (p : PanelIx) (l : LineIx) (ts : List Target) : State :=
  { s with roster := { s.roster with
      targets := setLine s.roster.targets p l (tab fun c =>
        (ts[c.val]?).getD (((s.roster.targets.get p).get l).get c)) } }

/-- A line's content is computed into its targets (section 5.5). -/
def storeLine (s : State) (p : PanelIx) (l : LineIx) : State :=
  let ln := s.line p l
  match ln.kind with
  | .unused => s
  | .trailer => s
  | .clock => storeTargets s p l (inPair ln.normal (clockText s.setup.origin s.clock.now))
  | .notice => storeTargets s p l (noticeCells s p l)
  | _ =>
    let c := rosterCells s p l
    storeTargets { s with roster := { s.roster with shown := setLine s.roster.shown p l c.2 } } p l c.1

/-- A line's content is computed, and each cell whose target changed is offered, from cell 0 (R85). -/
def computeLine (s : State) (p : PanelIx) (l : LineIx) : State :=
  let s' := storeLine s p l
  ((lineCells s' p l).filter fun r => cellAt s'.roster.targets r != cellAt s.roster.targets r).foldl
    (fun t r => offer t r true) s'

/-- The lines of a panel that `sel` picks are computed, in line order (R85). -/
def computeLines (s : State) (p : PanelIx) (sel : LineIx → Bool) : State :=
  ((List.finRange 16).filter sel).foldl (fun t l => computeLine t p l) s

/-! ### What recomputes what (R93) -/

/-- The kinds of line a rule recomputes. -/
structure Which where
  roster : Bool
  clock  : Bool
  notice : Bool
  deriving DecidableEq, Repr

/-- Whether a line is of a kind to be recomputed. -/
def Which.has (w : Which) (k : LineKind) : Bool :=
  match k with
  | .rosterWide => w.roster
  | .rosterNarrow => w.roster
  | .clock => w.clock
  | .notice => w.notice
  | .unused => false
  | .trailer => false

/-- One panel's lines are recomputed; for roster lines the panel's roster is computed first (R93). -/
def recomputePanel (s : State) (w : Which) (p : PanelIx) : State :=
  let s' := if w.roster then assignRoster s p else s
  computeLines s' p fun l => w.has (s.line p l).kind

/-- The lines of the panels that `sel` picks are recomputed, in panel order (R85, R93). -/
def recompute (s : State) (w : Which) (sel : PanelIx → Bool) : State :=
  ((List.finRange 24).filter sel).foldl (fun t p => recomputePanel t w p) s

/-- The rosters of every panel whose hall mask includes one of the halls (R30). -/
def recomputeHalls (s : State) (halls : List HallIx) : State :=
  recompute s { roster := true, clock := false, notice := false } fun p =>
    halls.any fun h => (s.roster.layouts.get p).filter.halls.getLsbD h.val

/-- Every CLOCK line of every panel (R70). -/
def recomputeClocks (s : State) : State :=
  recompute s { roster := false, clock := true, notice := false } fun _ => true

/-- Every roster and CLOCK line of every panel (R71). -/
def recomputeAllTimes (s : State) : State :=
  recompute s { roster := true, clock := true, notice := false } fun _ => true

/-- The NOTICE lines of the panels of a mask (R114). -/
def recomputeNotices (s : State) (mask : BitVec 24) : State :=
  recompute s { roster := false, clock := false, notice := true } fun p => mask.getLsbD p.val

/-- The roster lines that name a showing of a title (R81). -/
def recomputeTitle (s : State) (t : TitleIx) : State :=
  (List.finRange 24).foldl (fun acc p =>
    computeLines acc p fun l =>
      (acc.line p l).kind.isRoster &&
        match lineAt acc.roster.assign p l with
        | some i => (acc.seats.entries.get i).title == t
        | none => false) s

/-! ### Layouts (R80) -/

/-- A layout replaces a panel's, in one rule (R80). The shown figures start from none and stand as the quantizer leaves
them when the targets are computed, at an acceptance (R80 steps 4 and 5, R88) and also in a build, where R95's table has
none (DEDUCED, log 55). -/
def installLayout (s : State) (p : PanelIx) (ly : Layout) : State :=
  let s1 := { s with roster := { s.roster with layouts := setAt s.roster.layouts p ly } }
  let s2 := unknownPanel (clearPanel s1 p) p
  let s3 := { s2 with roster := { s2.roster with
    assign := setAt s2.roster.assign p (Vector.replicate 16 none)
    shown := setAt s2.roster.shown p (Vector.replicate 16 none) } }
  offerPanel ((List.finRange 16).foldl (fun t l => storeLine t p l) (assignRoster s3 p)) p

/-- Acceptance of a layout, with the redraw-pending walk that follows if the queue count fell (R80, R98, R106). -/
def acceptLayout (s : State) (p : PanelIx) (ly : Layout) : State :=
  let s' := installLayout s p ly
  if s.painter.queue.any fun r => r.panel == p then walkIfLow s' else s'

end Sys2Proof.Machine
end

