-- ==== Sys2Proof/Machine/SeatOps.lean ====
section
/-! DEFINITION. Seat entries (Chapter 2) and the Hold Table (section 3.5): what a change of an entry brings with it
(R30 to R32), phases and their PHASE entries (R22, R28), record acceptance (R24 to R29) and building (R37). -/

namespace Sys2Proof.Machine

/-! ### The entry and its derived values -/

/-- Seats left recomputed (R20). -/
def Seat.recount (e : Seat) : Seat := { e with left := e.capacity - e.sold - e.held }

/-- The title a showing stands for in the sellable counts, if it stands (R31). -/
def standsFor (e : Seat) : Option TitleIx :=
  if (e.phase = .onSale ∨ e.phase = .lastCall) ∧ 0 < e.left then some e.title else none

/-- The sellable counts after a showing's standing has changed (R31). -/
def sellableAfter (v : Vector Nat 64) (old new : Option TitleIx) : Vector Nat 64 :=
  if old = new then v
  else
    let v1 := match old with
      | some a => modAt v a fun n => n - 1
      | none => v
    match new with
    | some b => modAt v1 b fun n => n + 1
    | none => v1

/-- An entry is put in place, with the sellable counts brought up to date (R31). -/
def placeSeat (s : State) (i : ShowingIx) (e : Seat) : State :=
  { s with seats :=
      { entries := setAt s.seats.entries i e
        sellable := sellableAfter s.seats.sellable (standsFor (s.seats.entries.get i)) (standsFor e) } }

/-- Whether a change alters phase, seats left, sold or held (R30). -/
def countsChanged (old new : Seat) : Bool :=
  old.phase != new.phase || old.left != new.left || old.sold != new.sold || old.held != new.held

/-- Whether a change alters any of the eight fields of R30. -/
def fieldsChanged (old new : Seat) : Bool :=
  countsChanged old new || old.title != new.title || old.hall != new.hall || old.start != new.start
    || old.capacity != new.capacity

/-- The halls a change names: a VACANT entry has none (R30, log 22). -/
def hallsOf (e : Seat) : List HallIx := if e.phase = .vacant then [] else [e.hall]

/-- Whether a change is reported SOLD_OUT (R32). -/
def soldOutBy (old new : Seat) : Bool :=
  0 < old.left && new.left == 0 && (new.phase == .onSale || new.phase == .lastCall || new.phase == .started)

/-- The time of last change of a changed entry (R30). -/
def stamp (now : LobbyTime) (old new : Seat) : Seat :=
  if countsChanged old new then { new with changed := now } else new

/-- An entry is changed, with all the consequences of R30: time of last change, write-back, sellable counts, rosters,
SOLD_OUT. -/
def changeSeat (s : State) (i : ShowingIx) (e : Seat) : State :=
  let old := s.seats.entries.get i
  let s1 := placeSeat s i (stamp s.clock.now old e)
  let s2 := if countsChanged old e then markShowing s1 i else s1
  let s3 := if fieldsChanged old e then recomputeHalls s2 (hallsOf old ++ hallsOf e) else s2
  if soldOutBy old e then raise s3 .soldOut (le8 i.val) (le8 e.title.val ++ le8 e.hall.val) else s3

/-! ### Holds (R54, R56) -/

/-- Whether a Hold Table entry is live and names a showing. -/
def holdNames (h : Option Hold) (i : ShowingIx) : Bool :=
  match h with
  | some h => h.showing == i
  | none => false

/-- Every live hold of a showing is removed with its HOLD_EXPIRE entry (R56). -/
def releaseHolds (s : State) (i : ShowingIx) : State :=
  let keep : DueEntry → Bool := fun e =>
    match e.key with
    | .hold h => !holdNames (s.holds.get h) i
    | _ => true
  { s with
    holds := mapTab s.holds fun h => if holdNames h i then none else h
    due := { list := s.due.list.filter keep, batch := s.due.batch.filter keep } }

/-- A hold is removed with its HOLD_EXPIRE entry (R52, R53). -/
def removeHold (s : State) (h : HoldIx) : State :=
  removeDue { s with holds := setAt s.holds h none } (.hold h)

/-- The live hold with a desk and token (R54). -/
def findHold (s : State) (desk : Fin 8) (token : BitVec 16) : Option (HoldIx × Hold) :=
  (List.finRange 64).findSome? fun h =>
    match s.holds.get h with
    | some x => if x.desk = desk ∧ x.token = token then some (h, x) else none
    | none => none

/-- A free Hold Table entry, the lowest-numbered (log 24). -/
def freeHold (s : State) : Option HoldIx := (List.finRange 64).find? fun h => (s.holds.get h).isNone

/-! ### Phases (R22, R23, R28) -/

/-- A showing whose phase is set to ON_SALE, LAST_CALL, STARTED or CLOSED: its PHASE entry is removed, the chain of R22
is followed, the entry of the next pending phase is inserted, and a chain that ends in CLOSED releases the holds
(R28). -/
def enterPhase (s : State) (i : ShowingIx) (e : Seat) (p : Phase) : State × Seat :=
  let c := phaseChain s.setup s.clock.now e.start p
  let s1 := removeDue s (.phase i)
  if c.1 = .closed then (releaseHolds s1 i, ({ e with phase := .closed, held := 0 }).recount)
  else
    let s2 := match c.2 with
      | some d => insertDue s1 (.phase i) (some d.1) d.2
      | none => s1
    (s2, ({ e with phase := c.1 }).recount)

/-- A PHASE entry with target phase P is handed to the Seat Unit (R23). -/
def firePhase (s : State) (i : ShowingIx) (p : Phase) : State :=
  let r := enterPhase s i (s.seats.entries.get i) p
  changeSeat r.1 i r.2

/-! ### Record acceptance (R19, R24 to R29) -/

/-- Whether a record is out of range (R19). -/
def showingOutOfRange (r : ShowingRec) : Bool :=
  2 < r.intent ||
    (r.intent != 0 && (63 < r.title || 31 < r.hall || 1048576 ≤ r.start || r.capacity == 0 || 999 < r.capacity))

/-- The refusal of a handed showing record: the detail of its report, or none (R24, codes of R188). -/
def showingRefusal (e : Seat) (r : ShowingRec) : Option (List Byte) :=
  if showingOutOfRange r then some (le8 1)
  else if e.phase = .closed ∧ r.intent ≠ 0 then some (le8 2)
  else if e.phase = .cancelled ∧ r.intent = 1 then some (le8 3)
  else if r.intent = 1 ∧ r.capacity < e.sold + e.held then
    some (le8 4 ++ le16 r.capacity ++ le16 (e.sold + e.held))
  else if r.intent = 2 ∧ r.capacity < e.sold then some (le8 4 ++ le16 r.capacity ++ le16 e.sold)
  else none

/-- The entry with a record's four fields (R25, R27). -/
def withRecord (e : Seat) (r : ShowingRec) : Seat :=
  ({ e with title := Fin.ofNat 64 r.title, hall := Fin.ofNat 32 r.hall, start := BitVec.ofNat 20 r.start,
            capacity := r.capacity }).recount

/-- Acceptance of a record of intent OPEN (R25). -/
def openShowing (s : State) (i : ShowingIx) (r : ShowingRec) : State :=
  let e := withRecord (s.seats.entries.get i) r
  let x := enterPhase s i e (phaseFromNow s.setup s.clock.now e.start)
  changeSeat x.1 i x.2

/-- Acceptance of a record of intent CANCELLED (R27). -/
def cancelShowing (s : State) (i : ShowingIx) (r : ShowingRec) : State :=
  let e := ({ withRecord (s.seats.entries.get i) r with phase := .cancelled, held := 0 } : Seat).recount
  changeSeat (removeDue (releaseHolds s i) (.phase i)) i e

/-- Acceptance of a record of intent VACANT (R29). -/
def vacateShowing (s : State) (i : ShowingIx) : State :=
  changeSeat (removeDue (releaseHolds s i) (.phase i)) i (.vacant (s.seats.entries.get i).changed)

/-- A showing record is handed to the Seat Unit (R24). -/
def handShowing (s : State) (i : ShowingIx) (bs : List Byte) : State :=
  let r := showingRec bs
  match showingRefusal (s.seats.entries.get i) r with
  | some d => raise s .showingRefused (le8 i.val) d
  | none =>
    if r.intent = 1 then openShowing s i r
    else if r.intent = 2 then cancelShowing s i r
    else vacateShowing s i

/-! ### Building (R37, R38) -/

/-- The sold field a build takes: 0 without resume, and otherwise the field clamped to capacity (R37). -/
def builtSold (resume : Bool) (r : ShowingRec) (bs : List Byte) : Nat :=
  if resume then min (u16 bs 36) r.capacity else 0

/-- The entry a build makes of a record in range, before its phase (R37). -/
def builtSeat (s : State) (r : ShowingRec) (bs : List Byte) : Seat :=
  { withRecord (.vacant s.clock.now) r with sold := builtSold s.start.resume r bs }

/-- A showing is built from its 64-byte record as read (R37). -/
def buildShowing (s : State) (i : ShowingIx) (bs : List Byte) : State :=
  let r := showingRec bs
  if showingOutOfRange r then
    placeSeat (raise s .showingRefused (le8 i.val) (le8 1)) i (.vacant s.clock.now)
  else if r.intent = 0 then placeSeat s i (.vacant s.clock.now)
  else
    let s1 :=
      if s.start.resume ∧ r.capacity < u16 bs 36 then
        raise s .showingRefused (le8 i.val) (le8 5 ++ le16 (u16 bs 36) ++ le16 r.capacity)
      else s
    let e := builtSeat s r bs
    if r.intent = 2 then placeSeat s1 i ({ e with phase := .cancelled }).recount
    else
      let x := enterPhase s1 i e (phaseFromNow s.setup s.clock.now e.start)
      placeSeat x.1 i x.2

/-- A showing whose read faulted is built VACANT (R178). -/
def buildShowingFault (s : State) (i : ShowingIx) : State := placeSeat s i (.vacant s.clock.now)

end Sys2Proof.Machine
end

