-- ==== Sys2Proof/Machine/JournalOps.lean ====
section
/-! DEFINITION. The journal ring and its gap timer (sections 3.1 to 3.3) and the actions (section 3.4). -/

namespace Sys2Proof.Machine

/-- The gap timer follows the gap condition: it starts at 0 when the condition becomes true in RUNNING or QUIET, and
stops when it is false (R46). -/
def updateGap (s : State) : State :=
  { s with journal := { s.journal with gapStart :=
      if (s.active && gapCondition s.journal) = true then
        match s.journal.gapStart with
        | some t => some t
        | none => some s.clock.ticks
      else none } }

/-- The journal after its tail has advanced (R45): the slot's mark clears, the tail rises by one, and the lap toggles as
it rises from 63. -/
def Journal.advance (j : Journal) : Journal :=
  { j with
    marks := setAt j.marks j.tail false
    tail := j.tail + 1
    lap := if j.tail = 63 then j.lap.other else j.lap
    gapStart := none }

/-- The tail advances: the header is marked for write-back, and the gap timer starts at 0 for the new tail if the gap
condition holds (R45, R47). -/
def advanceTail (s : State) : State := updateGap (markJournal { s with journal := s.journal.advance })

/-- A journal slot commits (R40). -/
def slotCommitted (s : State) (i : JournalIx) : State :=
  let j := s.journal
  if j.marks.get i then
    if i = j.tail ∧ j.fetch = .fetching then { s with journal := { j with fetch := .stale } } else s
  else updateGap { s with journal := { j with marks := setAt j.marks i true } }

/-- A write of a lap marker is taken (R8, R41). -/
def lapWritten (s : State) (i : JournalIx) (v : Byte) : State :=
  let j := s.journal
  if v.toNat = (expectedLap j i).code then slotCommitted s i
  else if v.toNat = j.lap.code ∧ i.val < j.tail.val then raise s .lateRecord (le8 i.val) [v]
  else s

/-! ### The actions (R48 to R53) -/

/-- Whether a showing passes the phase gate (R48). -/
def passesGate (p : Phase) : Bool := p == .onSale || p == .lastCall || p == .started

/-- The subject of a journal report: slot, showing (section 3.4). -/
def slotSubject (slot : JournalIx) (i : ShowingIx) : List Byte := le8 slot.val ++ le8 i.val

/-- The refusal of the phase gate (R48); the action is the record's (log 20). -/
def gateRefused (s : State) (slot : JournalIx) (r : JournalRec) : State :=
  raise s .saleRefused (slotSubject slot r.showing)
    (le8 r.action ++ le8 (s.seats.entries.get r.showing).phase.code)

/-- A report of a clamped action: requested, applied. -/
def clampReport (s : State) (k : ReportKind) (slot : JournalIx) (r : JournalRec) (applied : Nat) : State :=
  if applied < r.seats then
    raise s k (slotSubject slot r.showing) (le16 r.seats ++ le16 applied)
  else s

/-- The Seat Unit is given a showing's new sold and held (R33). -/
def setCounts (s : State) (i : ShowingIx) (sold held : Nat) : State :=
  changeSeat s i ({ s.seats.entries.get i with sold := sold, held := held }).recount

/-- A SELL that passes the gate (R49). -/
def sellSeats (s : State) (slot : JournalIx) (r : JournalRec) : State :=
  let e := s.seats.entries.get r.showing
  let n := min r.seats e.left
  setCounts (clampReport s .saleClamped slot r n) r.showing (e.sold + n) e.held

/-- A SELL, or the fallback sale of a CONVERT, at the gate (R48, R49, R52). -/
def sell (s : State) (slot : JournalIx) (r : JournalRec) : State :=
  if passesGate (s.seats.entries.get r.showing).phase then sellSeats s slot r else gateRefused s slot r

/-- A REFUND (R50). -/
def refund (s : State) (slot : JournalIx) (r : JournalRec) : State :=
  let e := s.seats.entries.get r.showing
  let n := min r.seats e.sold
  setCounts (clampReport s .refundClamped slot r n) r.showing (e.sold - n) e.held

/-- The desk of a record that has passed R44. -/
def deskOf (r : JournalRec) : Fin 8 := Fin.ofNat 8 r.desk

/-- Desk and token, as details carry them. -/
def deskToken (desk : Fin 8) (token : BitVec 16) : List Byte := le8 desk.val ++ le16 token.toNat

/-- A refused HOLD (R51). -/
def holdRefused (s : State) (slot : JournalIx) (r : JournalRec) (reason : Nat) : State :=
  raise s .holdRefused (slotSubject slot r.showing) (le8 reason ++ deskToken (deskOf r) r.token)

/-- A hold's life, clamped to 30–900 seconds (R51). -/
def clampLife (n : Nat) : Nat := max 30 (min n 900)

/-- A HOLD (R51). -/
def hold (s : State) (slot : JournalIx) (r : JournalRec) : State :=
  let e := s.seats.entries.get r.showing
  if !passesGate e.phase then gateRefused s slot r
  else
    match freeHold s with
    | none => holdRefused s slot r 1
    | some h =>
      if (findHold s (deskOf r) r.token).isSome then holdRefused s slot r 2
      else if e.left = 0 then holdRefused s slot r 3
      else
        let n := min r.seats e.left
        let x : Hold := { showing := r.showing, desk := deskOf r, token := r.token, seats := n }
        let s1 := insertDue { s with holds := setAt s.holds h (some x) } (.hold h) none
          (after s.clock.now (clampLife r.life))
        setCounts (clampReport s1 .holdShort slot r n) r.showing e.sold (e.held + n)

/-- A CONVERT (R52). -/
def convert (s : State) (slot : JournalIx) (r : JournalRec) : State :=
  let e := s.seats.entries.get r.showing
  let late := fun (other : Nat) =>
    sell (raise s .convertLate (slotSubject slot r.showing) (deskToken (deskOf r) r.token ++ le8 other)) slot r
  match findHold s (deskOf r) r.token with
  | some (h, x) =>
    if x.showing = r.showing then setCounts (removeHold s h) r.showing (e.sold + x.seats) (e.held - x.seats)
    else late 1
  | none => late 0

/-- A RELEASE (R53). -/
def release (s : State) (slot : JournalIx) (r : JournalRec) : State :=
  let e := s.seats.entries.get r.showing
  let unknown := raise s .releaseUnknown (slotSubject slot r.showing) (deskToken (deskOf r) r.token)
  match findHold s (deskOf r) r.token with
  | some (h, x) =>
    if x.showing = r.showing then setCounts (removeHold s h) r.showing e.sold (e.held - x.seats) else unknown
  | none => unknown

/-- The reason a fetched record is bad, if it is (R44). -/
def journalBad (s : State) (r : JournalRec) : Option Nat :=
  if actionOf r.action = none then some 1
  else if r.seats = 0 ∨ 16 < r.seats then some 2
  else if 7 < r.desk then some 3
  else if (s.seats.entries.get r.showing).phase = .vacant then some 4
  else none

/-- A fetched journal record is checked and acted on (R44, R48 to R53). -/
def applyJournal (s : State) (r : JournalRec) : State :=
  let slot := s.journal.tail
  match journalBad s r with
  | some reason => raise s .journalBad (slotSubject slot r.showing) (le8 reason)
  | none =>
    match actionOf r.action with
    | some .sell => sell s slot r
    | some .refund => refund s slot r
    | some .hold => hold s slot r
    | some .convert => convert s slot r
    | some .release => release s slot r
    | none => s

/-- A hold expires (R55). -/
def expireHold (s : State) (h : HoldIx) : State :=
  match s.holds.get h with
  | none => s
  | some x =>
    let e := s.seats.entries.get x.showing
    raise (setCounts (removeHold s h) x.showing e.sold (e.held - x.seats)) .holdExpired (le8 x.showing.val)
      (deskToken x.desk x.token ++ le16 x.seats)

end Sys2Proof.Machine
end

