-- ==== Sys2Proof/Machine/NoticeOps.lean ====
section
/-! DEFINITION. Notices and the banner glyph cache (Chapter 7). -/

namespace Sys2Proof.Machine

/-! ### The cache (R116) -/

/-- The code an entry holds, FILLING or HELD. -/
def Fill.code : Fill → Option Byte
  | .empty => none
  | .filling c => some c
  | .held c _ => some c

/-- Whether an entry is HELD. -/
def Fill.isHeld : Fill → Bool
  | .held _ _ => true
  | _ => false

/-- The entry that holds a code, if one does (R116). -/
def cacheFind (cache : Vector CacheEntry 128) (code : Byte) : Option CacheIx :=
  (List.finRange 128).find? fun e => (cache.get e).fill.code == some code

/-- The EMPTY entries, in order. -/
def emptyEntries (cache : Vector CacheEntry 128) : List CacheIx :=
  (List.finRange 128).filter fun e => (cache.get e).fill == .empty

/-- An entry with its count lowered by one; a HELD entry at 0 becomes EMPTY, a FILLING one stays (R116). -/
def CacheEntry.drop (e : CacheEntry) : CacheEntry :=
  if e.refs - 1 = 0 ∧ e.fill.isHeld then .empty else { e with refs := e.refs - 1 }

/-- An entry with its count raised by one. -/
def CacheEntry.hold (e : CacheEntry) : CacheEntry := { e with refs := e.refs + 1 }

/-- The counts of a list of entries lowered by one each. -/
def dropRefs (cache : Vector CacheEntry 128) (es : List CacheIx) : Vector CacheEntry 128 :=
  es.foldl (fun c e => modAt c e CacheEntry.drop) cache

/-- Whether lowering the counts of these entries makes one EMPTY. -/
def dropsEmpty (cache : Vector CacheEntry 128) (es : List CacheIx) : Bool :=
  es.any fun e => (cache.get e).fill.isHeld && (cache.get e).refs - 1 == 0

/-- The counts of a list of entries raised by one each. -/
def holdRefs (cache : Vector CacheEntry 128) (es : List CacheIx) : Vector CacheEntry 128 :=
  es.foldl (fun c e => modAt c e CacheEntry.hold) cache

/-! ### Notice entries -/

/-- A notice entry is replaced. -/
def setNotice (s : State) (n : NoticeIx) (x : Notice) : State :=
  { s with notices := { s.notices with entries := setAt s.notices.entries n x } }

/-- The distinct codes of a banner's text (R117). -/
def codeSet (f : NoticeFields) : List Byte := distinct (f.text.take f.length)

/-- The missing codes of a banner against the cache (R117). -/
def missingCodes (cache : Vector CacheEntry 128) (f : NoticeFields) : List Byte :=
  (codeSet f).filter fun c => (cacheFind cache c).isNone

/-- Whether a banner fits (R117). -/
def bannerFits (u : NoticeUnit) (n : NoticeIx) : Bool :=
  (missingCodes u.cache (u.entries.get n).fields).length ≤ (emptyEntries u.cache).length

/-- One code of an admitted banner takes its entry (R117 steps 1 and 2). -/
def takeCode (u : NoticeUnit) (c : Byte) : NoticeUnit :=
  match cacheFind u.cache c with
  | some e => { u with cache := modAt u.cache e CacheEntry.hold }
  | none =>
    match (emptyEntries u.cache).head? with
    | some e => { u with cache := setAt u.cache e { fill := .filling c, refs := 1 }, fetchList := u.fetchList ++ [e] }
    | none => u

/-- The entries of a code set. -/
def codeEntries (cache : Vector CacheEntry 128) (cs : List Byte) : List (Byte × CacheIx) :=
  cs.filterMap fun c => (cacheFind cache c).map fun e => (c, e)

/-- BANNER_READY if every entry is HELD, and BANNER_LOADING otherwise (R117). -/
def loadState (cache : Vector CacheEntry 128) (es : List (Byte × CacheIx)) : NoticeState :=
  if es.all fun e => (cache.get e.2).fill.isHeld then .bannerReady else .bannerLoading

/-- A banner that fits is admitted (R117). -/
def admitBanner (u : NoticeUnit) (n : NoticeIx) : NoticeUnit :=
  let x := u.entries.get n
  let u1 := (codeSet x.fields).foldl takeCode u
  let es := codeEntries u1.cache (codeSet x.fields)
  { u1 with entries := setAt u1.entries n { x with state := loadState u1.cache es, entries := es } }

/-- The order of the wait list: priority, highest first, then oldest first (R118). -/
def olderFirst (u : NoticeUnit) (i j : NoticeIx) : Bool :=
  let a := u.entries.get i
  let b := u.entries.get j
  b.fields.priority < a.fields.priority || (a.fields.priority == b.fields.priority && a.seq.toNat ≤ b.seq.toNat)

/-- A banner joins the wait list at its place (R118). -/
def joinWaitList (u : NoticeUnit) (n : NoticeIx) : NoticeUnit :=
  { u with
    entries := modAt u.entries n fun x => { x with state := .bannerWaiting, entries := [] }
    waitList := insertBy (olderFirst u) n (u.waitList.filter fun m => m != n) }

/-- A banner that does not fit waits, with its report (R117). -/
def waitBanner (s : State) (n : NoticeIx) : State :=
  raise { s with notices := joinWaitList s.notices n } .bannerWaiting (le8 n.val)
    (le16 (missingCodes s.notices.cache (s.notices.entries.get n).fields).length
      ++ le16 (emptyEntries s.notices.cache).length)

/-- A posted banner is tested for admission (R112 step 3, R117). -/
def tryBanner (s : State) (n : NoticeIx) : State :=
  if bannerFits s.notices n then { s with notices := admitBanner s.notices n } else waitBanner s n

/-- One banner of the wait list is tested by a walk (R118). -/
def walkBanner (u : NoticeUnit) (n : NoticeIx) : NoticeUnit :=
  if bannerFits u n then { admitBanner u n with waitList := u.waitList.filter fun m => m != n } else u

/-- The wait list is walked in order (R118). -/
def walkWaitList (s : State) : State :=
  { s with notices := s.notices.waitList.foldl walkBanner s.notices }

/-! ### Leaving a state (R115) -/

/-- The cache entries a notice holds references on. -/
def heldEntries (x : Notice) : List CacheIx :=
  if x.state = .bannerLoading ∨ x.state = .bannerReady then x.entries.map (·.2) else []

/-- Whether leaving its state frees a cache entry. -/
def leavingFrees (s : State) (n : NoticeIx) : Bool :=
  dropsEmpty s.notices.cache (heldEntries (s.notices.entries.get n))

/-- A notice leaves its state and is IDLE (R115). -/
def leaveState (s : State) (n : NoticeIx) : State :=
  let x := s.notices.entries.get n
  { s with notices := { s.notices with
      entries := setAt s.notices.entries n { x with state := .idle, entries := [] }
      waitList := s.notices.waitList.filter fun m => m != n
      cache := dropRefs s.notices.cache (heldEntries x) } }

/-- The panels whose NOTICE lines show a notice's change of state: its mask if it is a line notice that stands
(R114). -/
def lineMask (x : Notice) : BitVec 24 := if x.state = .lineActive then x.fields.mask else 0

/-! ### Records (R110 to R113) -/

/-- The refusal of a handed notice record: the detail of its report, or none (R110, codes of R188). -/
def noticeRefusal (r : NoticeRec) : Option (List Byte) :=
  if r.intent = 2 then none
  else if r.intent ≠ 1 then some (le8 1 ++ le8 r.intent)
  else if r.kind ≠ 1 ∧ r.kind ≠ 2 then some (le8 2 ++ le8 r.kind)
  else if r.length = 0 ∨ 48 < r.length then some (le8 3 ++ le8 r.length)
  else if 7 < r.priority then some (le8 4 ++ le8 r.priority)
  else if r.mask = 0 then some (le8 5 ++ le24 0)
  else none

/-- The fields of a POSTED record (R111). -/
def noticeFields (r : NoticeRec) : NoticeFields :=
  { text := r.text, kind := if r.kind = 1 then .line else .banner, priority := r.priority, length := r.length,
    mask := r.mask, lifetime := r.lifetime }

/-- The entry takes a record's fields and the next post sequence number (R111, R112 step 2). -/
def takeFields (s : State) (n : NoticeIx) (f : NoticeFields) : State :=
  let q := s.notices.counter + 1
  { s with notices := { s.notices with
      counter := q
      entries := setAt s.notices.entries n { state := .idle, fields := f, seq := q, entries := [] } } }

/-- A LINE notice becomes LINE_ACTIVE (R112 step 3). -/
def activateLine (s : State) (n : NoticeIx) : State :=
  { s with notices := { s.notices with
      entries := modAt s.notices.entries n fun x => { x with state := .lineActive } } }

/-- A notice's expiry is set, or removed for a lifetime of 0 (R112 step 4). -/
def setExpiry (s : State) (n : NoticeIx) (lifetime : Nat) : State :=
  if lifetime = 0 then removeDue s (.notice n)
  else insertDue s (.notice n) none (after s.clock.now lifetime)

/-- An accepted POSTED record (R112). -/
def postNotice (s : State) (n : NoticeIx) (f : NoticeFields) : State :=
  let old := s.notices.entries.get n
  let frees := leavingFrees s n
  let s2 := takeFields (leaveState s n) n f
  let s3 := if f.kind = .line then activateLine s2 n else tryBanner s2 n
  let s4 := setExpiry s3 n f.lifetime
  let s5 := recomputeNotices s4 (lineMask old ||| (if f.kind = .line then f.mask else 0))
  if frees then walkWaitList s5 else s5

/-- A standing notice becomes IDLE (R113): its NOTICE lines are recomputed, and the wait list walked if an entry was
freed. -/
def endNotice (s : State) (n : NoticeIx) : State :=
  let frees := leavingFrees s n
  let s1 := recomputeNotices (leaveState s n) (lineMask (s.notices.entries.get n))
  if frees then walkWaitList s1 else s1

/-- A WITHDRAWN record (R113). -/
def withdrawNotice (s : State) (n : NoticeIx) : State :=
  if (s.notices.entries.get n).state = .idle then s else endNotice (removeDue s (.notice n)) n

/-- A notice expires (R113). -/
def expireNotice (s : State) (n : NoticeIx) : State :=
  let x := s.notices.entries.get n
  if x.state = .idle then s
  else raise (endNotice s n) .noticeExpired (le8 n.val) (le8 x.fields.kind.code ++ le32 x.seq.toNat)

/-- A notice record is handed to the Notice Unit (R110). -/
def handNotice (s : State) (n : NoticeIx) (bs : List Byte) : State :=
  let r := noticeRec bs
  match noticeRefusal r with
  | some d => raise s .noticeRefused (le8 n.val) d
  | none => if r.intent = 2 then withdrawNotice s n else postNotice s n (noticeFields r)

/-! ### Glyph fetches (R120) -/

/-- The NOTICE entries in BANNER_LOADING whose cache entries are all HELD become BANNER_READY (R120). -/
def readyBanners (u : NoticeUnit) : NoticeUnit :=
  { u with entries := mapTab u.entries fun x =>
      if x.state = .bannerLoading ∧ x.entries.all (fun e => (u.cache.get e.2).fill.isHeld) then
        { x with state := .bannerReady }
      else x }

/-- A cache entry is replaced. -/
def setCache (s : State) (e : CacheIx) (x : CacheEntry) : State :=
  { s with notices := { s.notices with cache := setAt s.notices.cache e x } }

/-- A glyph fetch has completed (R120), after any MEMORY_FAULT of it. -/
def fillEntry (s : State) (e : CacheIx) (res : ReadResult) : State :=
  let x := s.notices.cache.get e
  match x.fill with
  | .filling code =>
    if x.refs = 0 then walkWaitList (setCache s e .empty)
    else
      match res with
      | .ok data =>
        let s1 := setCache s e { x with fill := .held code data }
        { s1 with notices := readyBanners s1.notices }
      | .fault =>
        let s1 := raise (setCache s e { x with fill := .held code (List.replicate 64 0) }) .glyphFault
          [code] (le8 e.val)
        { s1 with notices := readyBanners s1.notices }
  | _ => s

/-! ### Building (R123) -/

/-- A notice record is built: a valid POSTED record takes its fields and has its expiry placed; its state is entered
when all records have been read (R123). -/
def buildNotice (s : State) (n : NoticeIx) (bs : List Byte) : State :=
  let r := noticeRec bs
  match noticeRefusal r with
  | some d => raise s .noticeRefused (le8 n.val) d
  | none =>
    if r.intent = 2 then s
    else
      let s1 := takeFields s n (noticeFields r)
      let s2 := if r.lifetime = 0 then s1 else insertDue s1 (.notice n) none (after s1.clock.now r.lifetime)
      { s2 with start := { s2.start with posted := s2.start.posted ++ [n] } }

/-- All notice records have been read (R123): the line notices become LINE_ACTIVE, the banners are tested in the wait
list's order, and the NOTICE lines of every panel are computed. -/
def finishNotices (s : State) : State :=
  let lines := s.start.posted.filter fun n => (s.notices.entries.get n).fields.kind == .line
  let banners := s.start.posted.filter fun n => (s.notices.entries.get n).fields.kind == .banner
  let s1 := lines.foldl activateLine s
  let s2 := (sortBy (olderFirst s1.notices) banners).foldl tryBanner s1
  recomputeNotices s2 (BitVec.allOnes 24)

/-! ### Banners at scan-out (R121) -/

/-- Whether a notice may be latched by a pass of a panel. -/
def bannerFor (n : Notice) (p : PanelIx) : Bool := n.state == .bannerReady && n.fields.mask.getLsbD p.val

/-- The banner offered to a pass of a panel (R121). -/
def bannerOffered (u : NoticeUnit) (p : PanelIx) : Option NoticeIx :=
  (sortBy (newerFirst u) ((List.finRange 32).filter fun n => bannerFor (u.entries.get n) p)).head?

/-- For each text position of a banner, the cache entry of its code. -/
def positionEntries (x : Notice) : List CacheIx :=
  (x.fields.text.take x.fields.length).filterMap fun c => (x.entries.find? fun e => e.1 == c).map (·.2)

end Sys2Proof.Machine
end

