-- ==== Sys2Proof/Machine/TrailerOps.lean ====
section
/-! DEFINITION. Trailer streams and rotation (Chapter 9). -/

namespace Sys2Proof.Machine

/-- A stream record is replaced. -/
def setStream (s : State) (i : StreamIx) (x : Stream) : State :=
  { s with trailers := { s.trailers with streams := setAt s.trailers.streams i x } }

/-- A stream's free set or presented slot has changed (R142, R143). -/
def slotsShownChanged (old new : Stream) : Bool :=
  freeSet old != freeSet new || presented old != presented new

/-- A stream's slots are changed; the status word is marked if the free set or the presented slot changed. -/
def changeSlots (s : State) (i : StreamIx) (slots : Vector FrameSlot 4) : State :=
  let old := s.trailers.streams.get i
  let new := { old with slots := slots }
  let s1 := setStream s i new
  if slotsShownChanged old new then markStream s1 i else s1

/-! ### Latches (R141) -/

/-- A slot latched by one more pass. -/
def latchSlot (s : State) (i : StreamIx) (k : FrameIx) : State :=
  let st := s.trailers.streams.get i
  setStream s i { st with slots := modAt st.slots k fun x => { x with latches := x.latches + 1 } }

/-- A slot whose latch count has fallen by one (R141). -/
def FrameSlot.release (x : FrameSlot) : FrameSlot :=
  let n := x.latches - 1
  if n = 0 ∧ x.state = .complete ∧ !x.newest then .free else { x with latches := n }

/-- A latch on a slot is released (R141). -/
def releaseSlot (s : State) (i : StreamIx) (k : FrameIx) : State :=
  let st := s.trailers.streams.get i
  changeSlots s i (modAt st.slots k FrameSlot.release)

/-! ### Frames arriving (R142, R143) -/

/-- What a controller write into a slot's pixel columns does to the slot, by its state (R142). -/
def fillSlot (s : State) (i : StreamIx) (k : FrameIx) : State :=
  let st := s.trailers.streams.get i
  let x := st.slots.get k
  match x.state with
  | .filling => s
  | .free => changeSlots s i (setAt st.slots k { x with state := .filling })
  | .complete =>
    let s1 := changeSlots s i (setAt st.slots k { x with state := .filling, newest := false, item := none })
    if 0 < x.latches then raise s1 .tear (le8 i.val) (le8 k.val ++ le16 x.latches) else s1

/-- A controller write into a slot's pixel columns (R142). A stream that is not enabled has no slot records (R140). -/
def slotPixelWrite (s : State) (i : StreamIx) (k : FrameIx) : State :=
  if (s.setup.streams.get i).enabled then fillSlot s i k else s

/-- A slot whose newest mark passes to the slot just tagged (R143 step 2). -/
def FrameSlot.superseded (x : FrameSlot) : FrameSlot :=
  if x.newest then if x.latches = 0 then .free else { x with newest := false } else x

/-- The slots after a tag of slot `k` naming an item (R143 steps 1 to 3). -/
def tagSlots (slots : Vector FrameSlot 4) (k : FrameIx) (item : Option CatalogIx) : Vector FrameSlot 4 :=
  setAt (mapTab slots FrameSlot.superseded) k
    { state := .complete, newest := true, latches := (slots.get k).latches, item := item }

/-! ### Picks and cues (R148 to R150) -/

/-- Whether a catalog entry is eligible at a pick (R148). -/
def eligibleItem (s : State) (e : CatalogIx) : Bool :=
  let x := s.trailers.catalog.get e
  e == 0 || (x.enabled &&
    match x.linked with
    | none => true
    | some t => 0 < s.seats.sellable.get t)

/-- The phases in the order a pick examines them (R149). -/
def phasesFrom (p : RotationIx) : List RotationIx := (List.finRange 32).map fun k => p + k

/-- The item of a phase, if it is eligible. -/
def phaseItem (s : State) (i : StreamIx) (q : RotationIx) : Option CatalogIx :=
  match (s.trailers.rotation.get i).get q with
  | some e => if eligibleItem s e then some e else none
  | none => none

/-- What a pick yields: the item, the phase it was taken from (none for the house reel as fallback), and the pointer it
leaves (R149). -/
structure Pick where
  item    : CatalogIx
  phase   : Option RotationIx
  pointer : RotationIx
  deriving DecidableEq, Repr

/-- A pick for a stream (R149). -/
def pick (s : State) (i : StreamIx) : Pick :=
  let p := (s.trailers.streams.get i).pointer
  match (phasesFrom p).findSome? fun q => (phaseItem s i q).map fun e => (e, q) with
  | some (e, q) => { item := e, phase := some q, pointer := q + 1 }
  | none => { item := 0, phase := none, pointer := p + 1 }

/-- A stream is cued by a pick (R150, R151). -/
def cueStream (s : State) (i : StreamIx) : State :=
  let k := pick s i
  let st := s.trailers.streams.get i
  markStream (raise (setStream s i { st with cued := some k.item, pointer := k.pointer }) .trailerCue (le8 i.val)
    (le8 k.item.val ++ [noneOr255 k.phase])) i

/-- The cue test (R150). -/
def cueTest (s : State) (i : StreamIx) : State :=
  let st := s.trailers.streams.get i
  if st.current.isSome && st.remaining ≤ 48 && st.cued.isNone then cueStream s i else s

/-- A stream after a tag naming an item has been counted (R144). -/
def countedStream (s : State) (st : Stream) (item : Option CatalogIx) : Stream :=
  match item with
  | none => st
  | some e =>
    if st.current = some e ∧ 0 < st.remaining then { st with remaining := st.remaining - 1 }
    else if st.cued = some e then
      { st with current := some e, remaining := (s.trailers.catalog.get e).frames - 1, cued := none }
    else st

/-- The item of a tag commit is counted (R144), and the cue test made (R150). -/
def countFrame (s : State) (i : StreamIx) (item : Option CatalogIx) : State :=
  let old := s.trailers.streams.get i
  let new := countedStream s old item
  let s1 := setStream s i new
  let s2 := if old.current ≠ new.current ∨ old.cued ≠ new.cued then markStream s1 i else s1
  cueTest s2 i

/-- A frame tag commit (R143). A stream that is not enabled has no slot records. -/
def tagCommit (s : State) (i : StreamIx) (k : FrameIx) (bytes : List Byte) : State :=
  if (s.setup.streams.get i).enabled then
    let item := indexOrNone 48 (u8 bytes 0)
    let s1 := changeSlots s i (tagSlots (s.trailers.streams.get i).slots k item)
    if s.active then countFrame s1 i item else s1
  else s

/-! ### Catalog and rotation (R146, R147) -/

/-- The refusal of a handed catalog entry: the detail of its report, or none (R146, codes of R188). -/
def catalogRefusal (r : CatalogRec) : Option (List Byte) :=
  if 1 < r.enabled then some (le8 1 ++ le8 r.enabled)
  else if 64 ≤ r.linked ∧ r.linked < 255 then some (le8 2 ++ le8 r.linked)
  else if r.frames = 0 ∨ 16383 < r.frames then some (le8 3 ++ le16 r.frames)
  else none

/-- The entry a valid catalog record gives. -/
def catalogEntry (r : CatalogRec) : CatalogEntry :=
  { enabled := r.enabled == 1, linked := indexOrNone 64 r.linked, frames := r.frames }

/-- A catalog entry is handed to the Trailer Unit, or read at a build (R146, R153). -/
def handCatalog (s : State) (e : CatalogIx) (bs : List Byte) : State :=
  match catalogRefusal (catalogRec bs) with
  | some d => raise s .catalogRefused (le8 e.val) d
  | none => { s with trailers := { s.trailers with
      catalog := setAt s.trailers.catalog e (catalogEntry (catalogRec bs)) } }

/-- A rotation table is handed to the Trailer Unit, or read at a build (R147, R153). -/
def handRotation (s : State) (i : StreamIx) (bs : List Byte) : State :=
  { s with trailers := { s.trailers with rotation := setAt s.trailers.rotation i (rotationRec bs) } }

/-! ### Warm restart (R154) -/

/-- A slot kept across a warm restart: no latch is counted, and a COMPLETE slot that is not newest is FREE. -/
def FrameSlot.restarted (x : FrameSlot) : FrameSlot :=
  if x.state = .complete ∧ !x.newest then .free else { x with latches := 0 }

/-- The streams once the Scan Tracker has dropped its latches at a warm restart (R139, R154, log 50). -/
def unlatchedStreams (v : Vector Stream 4) : Vector Stream 4 :=
  mapTab v fun x => { x with slots := mapTab x.slots FrameSlot.restarted }

/-- The streams after a warm restart that loads new descriptors (R154). -/
def restartStreams (old new : Vector StreamDesc 4) (streams : Vector Stream 4) : Vector Stream 4 :=
  tab fun i =>
    if (new.get i).enabled ∧ new.get i = old.get i then
      { Stream.empty with slots := mapTab (streams.get i).slots FrameSlot.restarted }
    else .empty

end Sys2Proof.Machine
end

