-- ==== Sys2Proof/Machine/ScanOps.lean ====
section
/-! DEFINITION. The scan-out path (Chapter 8): passes, latches, read plans, and the blending of a banner. -/

namespace Sys2Proof.Machine

/-- A panel's scan state is replaced. -/
def setScan (s : State) (p : PanelIx) (x : PanelScan) : State := { s with scan := setAt s.scan p x }

/-! ### Latches (R127, R128) -/

/-- The cache entries a banner latch holds references on, each once (R121, R128). -/
def latchRefs (b : Option BannerLatch) : List CacheIx :=
  match b with
  | some b => distinct b.entries
  | none => []

/-- Whether releasing a panel's latch makes a cache entry EMPTY. -/
def releaseFrees (s : State) (p : PanelIx) : Bool := dropsEmpty s.notices.cache (latchRefs (s.scan.get p).banner)

/-- A panel's latch is released (R128), less the walk of the wait list that ends the rule. -/
def releaseLatch (s : State) (p : PanelIx) : State :=
  let x := s.scan.get p
  let s1 := { s with
    notices := { s.notices with cache := dropRefs s.notices.cache (latchRefs x.banner) }
    scan := setAt s.scan p { x with banner := none, trailer := none } }
  match x.trailer with
  | some t => releaseSlot s1 t.stream t.slot
  | none => s1

/-- The banner part of a new latch (R127 step 2): the references are taken on each entry once. -/
def latchBanner (s : State) (p : PanelIx) : State :=
  let spec := (s.roster.layouts.get p).banner
  match (if spec.enabled then bannerOffered s.notices p else none) with
  | none => s
  | some n =>
    let b : BannerLatch :=
      { entries := positionEntries (s.notices.entries.get n), bx := spec.x, byRow := spec.y, fg := spec.fg,
        bg := spec.bg, dim := spec.dim }
    { s with
      notices := { s.notices with cache := holdRefs s.notices.cache (latchRefs (some b)) }
      scan := modAt s.scan p fun x => { x with banner := some b } }

/-- The TRAILER line of a panel's layout, if it has one. -/
def trailerLine (s : State) (p : PanelIx) : Option Line :=
  ((List.finRange 16).map fun l => s.line p l).find? fun ln => ln.kind == .trailer

/-- The trailer part of a new latch (R127 step 3, R141). -/
def latchTrailer (s : State) (p : PanelIx) : State :=
  match trailerLine s p with
  | none => s
  | some ln =>
    match presented (s.trailers.streams.get ln.stream) with
    | none => s
    | some k =>
      let d := s.setup.streams.get ln.stream
      let t : TrailerLatch :=
        { stream := ln.stream, slot := k, base := d.slots.get k, stride := d.stride, x0 := ln.x, y0 := ln.y,
          width := d.width, height := d.height }
      let s1 := latchSlot s ln.stream k
      { s1 with scan := modAt s1.scan p fun x => { x with trailer := some t } }

/-- A pass starts (R127); the wait list is walked at the end of the rule if the release freed an entry (R118,
log 16). -/
def startPass (s : State) (p : PanelIx) : State :=
  let frees := releaseFrees s p
  let s1 := latchTrailer (latchBanner (releaseLatch s p) p) p
  if frees then walkWaitList s1 else s1

/-- A read of a panel's pixel columns reaches the Scan Tracker (R126). -/
def scanRead (s : State) (p : PanelIx) (row : Nat) : State :=
  let x := s.scan.get p
  let s1 := if !x.scanning || row < x.lastRow then startPass s p else s
  { s1 with scan := modAt s1.scan p fun y =>
      { y with scanning := true, lastRow := row, idleStart := some s.clock.ticks } }

/-- A panel's idle timer expires (R129). -/
def endPass (s : State) (p : PanelIx) : State :=
  let frees := releaseFrees s p
  let s1 := releaseLatch s p
  let s2 := { s1 with scan := modAt s1.scan p fun y => { y with scanning := false, idleStart := none } }
  if frees then walkWaitList s2 else s2

/-! ### Plans (R130, R131, R134) -/

/-- The last column of a latched band, plus one, cut off at the panel's width (R131). -/
def bandEnd (b : BannerLatch) (width : Nat) : Nat := min (b.bx + 16 * b.entries.length) width

/-- Whether a pixel lies in a latched band (R131). -/
def inBand (b : BannerLatch) (width row col : Nat) : Bool :=
  b.byRow ≤ row && row < b.byRow + 32 && b.bx ≤ col && col < bandEnd b width

/-- The glyph bit of a pixel of the band (R131). -/
def bandBit (cache : Vector CacheEntry 128) (b : BannerLatch) (row col : Nat) : Bool :=
  match b.entries[(col - b.bx) / 16]? with
  | some e =>
    match (cache.get e).fill with
    | .held _ mask => glyphBit mask (row - b.byRow) ((col - b.bx) % 16)
    | _ => false
  | none => false

/-- The glyph bits of the pixel columns of a read (R131). -/
def overlayBits (s : State) (p : PanelIx) (b : BannerLatch) (row off beats : Nat) : List (Option Bool) :=
  (List.range (2 * beats)).map fun i =>
    let col := off / 4 + i
    if inBand b (s.setup.panels.get p).width row col then some (bandBit s.notices.cache b row col) else none

/-- Whether a read lies in a latched trailer region (R134). -/
def inRegion (t : TrailerLatch) (row off : Nat) : Bool :=
  t.y0 ≤ row && row < t.y0 + t.height && t.x0 * 4 ≤ off && off < (t.x0 + t.width) * 4

/-- The redirect address of a read (R134). -/
def redirectAddr (t : TrailerLatch) (row off : Nat) : Nat := t.base + (row - t.y0) * t.stride + (off - t.x0 * 4)

/-- The plan of a read of a panel's pixel columns, against the panel's latch (R130). -/
def planRead (s : State) (p : PanelIx) (row off beats : Nat) : Plan :=
  let x := s.scan.get p
  let overlay := match x.banner with
    | some b =>
      let bits := overlayBits s p b row off beats
      if bits.any Option.isSome then some (Plan.overlay { bits := bits, fg := b.fg, bg := b.bg, dim := b.dim }) else none
    | none => none
  match overlay, x.trailer with
  | some o, _ => o
  | none, some t => if inRegion t row off then .redirect (BitVec.ofNat 32 (redirectAddr t row off)) else .none
  | none, none => .none

/-! ### Blending (R132) -/

/-- One channel under the band where the glyph bit is 0: dimmed, the background added, saturated at 255 (R132). -/
def blendChannel (p bg : Byte) (dim : Nat) : Byte := BitVec.ofNat 8 (min 255 (p.toNat / 2 ^ dim + bg.toNat))

/-- A pixel of the response under the band (R132). -/
def blendPixel (o : Overlay) (bit : Bool) (p : Pixel) : Pixel :=
  if bit then o.fg
  else { b := blendChannel p.b o.bg.b o.dim, g := blendChannel p.g o.bg.g o.dim, r := blendChannel p.r o.bg.r o.dim,
         a := p.a }

/-- The data of a response to an OVERLAY read, blended (R132): each pixel the plan records inside the band is
modified. -/
def blend (o : Overlay) : List (Option Bool) → List Byte → List Byte
  | some bit :: bits, b :: g :: r :: a :: rest =>
    (blendPixel o bit { b := b, g := g, r := r, a := a }).bytes ++ blend o bits rest
  | none :: bits, b :: g :: r :: a :: rest => b :: g :: r :: a :: blend o bits rest
  | _, rest => rest

/-- The data a response is returned with (R132, R133, R138): an OK response to an OVERLAY read is blended, except in
TRANSPARENT. -/
def returnedData (part : PartState) (plan : Plan) (st : Status) (data : List Byte) : List Byte :=
  match plan, st with
  | .overlay o, .ok => if part = .transparent then data else blend o o.bits data
  | _, _ => data

end Sys2Proof.Machine
end

