-- ==== Sys2Proof/Machine/Contain.lean ====
section
/-! DEFINITION. Containment (section 11.5), and the entries to QUIET, TRANSPARENT and RESTARTING. -/

namespace Sys2Proof.Machine

/-! ### QUIET (R173, R107) -/

/-- A paint as the part enters QUIET: one that has not issued all its rows is interrupted, and ends if nothing it issued
is outstanding (R107). -/
def Paint.quieted (p : Paint) : Paint :=
  match p.stage with
  | .ended => p
  | .glyph => { p with interrupted := true }
  | .rows =>
    if p.rowsIssued < 32 then
      { p with interrupted := true, stage := if p.rowsDone = p.rowsIssued then .ended else .rows }
    else p

/-- The part enters QUIET (R173). -/
def enterQuiet (s : State) : State :=
  { s with part := .quiet, painter := { s.painter with slots := s.painter.slots.map Paint.quieted } }

/-! ### TRANSPARENT (R174) -/

/-- The Commit Unit on entry to TRANSPARENT (R17), and at a warm restart (R18). Its turn among the write-back queues
goes on from the queue last served (DESIGN CHOICE, log 8). -/
def CommitUnit.emptied (c : CommitUnit) : CommitUnit :=
  { c with queue := [], fetch := .const .idle, fetches := [], wbShowings := [], wbJournal := false, wbStreams := [] }

/-- An in-flight entry on entry to TRANSPARENT: its plan is lost (R138). -/
def losePlan (e : Option InFlight) : Option InFlight := e.map fun x => { x with plan := .none }

/-- The idle timers stop (R138). -/
def stopIdleTimers (v : Vector PanelScan 24) : Vector PanelScan 24 := mapTab v fun x => { x with idleStart := none }

/-- Every panel is IDLE from the entry to RESTARTING on (R138), and so has no latch and a stopped timer (R125). The
latches are dropped without handing anything back (R128, R139, log 50). -/
def idlePanels (v : Vector PanelScan 24) : Vector PanelScan 24 :=
  mapTab v fun x => { PanelScan.idle with lastRow := x.lastRow }

/-- The part enters TRANSPARENT (R174, R17, R57, R69, R138). -/
def enterTransparent (s : State) : State :=
  let s1 := dropOwn s
  { s1 with
    part := .transparent
    traffic := { s1.traffic with inflight := mapTab s1.traffic.inflight losePlan }
    commit := s1.commit.emptied
    journal := { s1.journal with fetch := .none, gapStart := none }
    due := .empty
    scan := stopIdleTimers s1.scan
    reports := { s1.reports with headerQueued := false } }

/-! ### Containment (R172) -/

/-- What containment does after a fault. -/
inductive Containment where
  | none
  | quiet
  | transparent
  | already
  deriving DecidableEq, Repr

/-- The action codes of MEMORY_FAULT (R188). -/
def Containment.code : Containment → Nat
  | .none => 0
  | .quiet => 1
  | .transparent => 2
  | .already => 3

/-- The containment action of the mode, the part state and the faulting requester (R172). -/
def containment (mode : ContainMode) (part : PartState) (byReport : Bool) : Containment :=
  match part, mode with
  | .running, .report => .none
  | .running, .quiet => .quiet
  | .running, .transparent => .transparent
  | .quiet, .report => .already
  | .quiet, .quiet => if byReport then .transparent else .already
  | .quiet, .transparent => .transparent
  | .transparent, _ => .already
  | _, _ => .none

/-- The containment action is taken (R172). -/
def contain (s : State) (c : Containment) : State :=
  match c with
  | .quiet => enterQuiet s
  | .transparent => enterTransparent s
  | _ => s

/-- MEMORY_FAULT is raised for a request of the Commit Unit, the Cell Painter or the Notice Unit, and the containment
mode acts (R171, R172). -/
def memoryFault (s : State) (r : Requester) (addr : BitVec 32) (isWrite : Bool) : State :=
  let c := containment s.setup.mode s.part false
  contain (raise s .memoryFault (le8 r.code)
    (le32 addr.toNat ++ le8 (classify s addr.toNat).code ++ le8 (kindCode isWrite) ++ le8 c.code)) c

/-- A Report Unit write faults (R169): the record or the header write is dropped, the overflow flag is set, and the
containment mode acts. -/
def reportWriteFault (s : State) (isRecord : Bool) : State :=
  let r := if isRecord then { s.reports with queue := s.reports.queue.tail } else s.reports
  contain { s with reports := r.setOverflow } (containment s.setup.mode s.part true)

/-! ### RESTARTING (R180, R181) -/

/-- A warm restart begins at stage 1 (R181): no block issues a new own request, and the outstanding ones are awaited and
discarded; every panel is IDLE and its latch dropped (R125, R138), so that no slot's latch count counts one (R141, R154,
log 50). -/
def beginRestart (s : State) : State :=
  let s1 := dropOwn s
  { s1 with
    part := .restarting
    start := { s1.start with stage := .wait }
    clock := { s1.clock with withheld := 0, pendingSet := none }
    journal := { s1.journal with gapStart := none }
    scan := idlePanels s1.scan
    trailers := { s1.trailers with streams := unlatchedStreams s1.trailers.streams } }

/-- A restart request (R180): it changes nothing while a restart is still waiting in stage 1. -/
def requestRestart (s : State) : State :=
  match s.part with
  | .loading => s
  | .restarting => if s.start.stage = .wait then s else beginRestart s
  | _ => beginRestart s

end Sys2Proof.Machine
end

