-- ==== Sys2Proof/Machine/TimeOps.lean ====
section
/-! DEFINITION. Lobby seconds and time sets (sections 4.1, 4.5, 4.6 and 4.7). -/

namespace Sys2Proof.Machine

/-- A centi-tick (R61): both counts advance, and at 100 the subsecond count becomes 0 and a second is completed. -/
def Clock.tick (c : Clock) : Clock :=
  if c.sub + 1 = 100 then { c with ticks := c.ticks + 1, sub := 0, secondsDue := c.secondsDue + 1 }
  else { c with ticks := c.ticks + 1, sub := c.sub + 1 }

/-- One REFCLK cycle of the NCO (R60): the accumulator after it, and whether it carried. -/
def Clock.cycle (c : Clock) : Clock × Bool :=
  match c.running, c.step with
  | true, some st => ({ c with acc := c.acc + st }, 4294967296 ≤ c.acc.toNat + st.toNat)
  | _, _ => (c, false)

/-- A second advance (R62): in RUNNING and QUIET the due entries form a batch and the minute may roll over (R68, R70);
in TRANSPARENT only lobby seconds move. -/
def secondAdvance (s : State) : State :=
  let now := s.clock.now + 1
  let s1 := { s with clock := { s.clock with now := now } }
  if s.active then
    let s2 := { s1 with due := s1.due.fire now 0 }
    if now.toNat % 60 = 0 then recomputeClocks s2 else s2
  else s1

/-- A second completed in BUILDING or RESTARTING is withheld (R63). -/
def withholdSecond (s : State) : State :=
  { s with clock := { s.clock with withheld := min 255 (s.clock.withheld + 1) } }

/-- A completed second is taken, by part state (R62, R63). -/
def takeSecond (s : State) : State :=
  let s1 := { s with clock := { s.clock with secondsDue := s.clock.secondsDue - 1 } }
  if s.rebuilding then withholdSecond s1 else secondAdvance s1

/-- The jump of a time set (R71), read as unsigned. -/
def jump (old new : LobbyTime) : Nat := (new - old).toNat

/-- The Due List after a time set: a forward jump fires (R73), a backward one moves the entries (R74). -/
def DueList.jumpTo (d : DueList) (old new : LobbyTime) : DueList :=
  if jump old new < 524288 then d.fire old (jump old new) else d.setBack old new (1048576 - jump old new)

/-- How many entries a time set fires (R71, R73, R74). -/
def DueList.jumpCount (d : DueList) (old new : LobbyTime) : Nat :=
  if jump old new < 524288 then d.fireCount old (jump old new) else 0

/-- Lobby time is set (R71). TIME_SET is raised once now is the new time, so its record's time field carries that time
(DESIGN CHOICE, log 54). -/
def moveTime (s : State) (v : LobbyTime) : State :=
  let old := s.clock.now
  let s1 := { s with
    clock := { s.clock with now := v, sub := 0 }
    due := s.due.jumpTo old v }
  recomputeAllTimes (raise s1 .timeSet []
    (le24 old.toNat ++ le24 v.toNat ++ le16 (s.due.jumpCount old v)))

/-- A time set in RUNNING or QUIET (R71): a second completed before it and not yet taken is dropped (DESIGN CHOICE,
log 4). -/
def setTime (s : State) (v : LobbyTime) : State :=
  moveTime { s with clock := { s.clock with secondsDue := 0 } } v

/-- A time set in BUILDING or RESTARTING is kept (R72): the seconds before it are lost, also those completed and not yet
taken (DESIGN CHOICE, log 4). -/
def keepTimeSet (s : State) (v : LobbyTime) : State :=
  { s with clock := { s.clock with pendingSet := some v, sub := 0, secondsDue := 0, withheld := 0 } }

/-- The pending time set is taken at entry to RUNNING (R72). A second completed since the set was kept and not yet taken
still waits, and is taken afterwards as those withheld are (DESIGN CHOICE, log 4). -/
def takePendingSet (s : State) : State :=
  match s.clock.pendingSet with
  | some v => moveTime { s with clock := { s.clock with pendingSet := none } } v
  | none => s

/-- The withheld seconds are taken one after another (R63), all of them in the rule of R179. Their firing batches are
queued in that order, and the first firing is handed on after the last of the seconds (DESIGN CHOICE, log 53). -/
def takeWithheld : Nat → State → State
  | 0, s => s
  | n + 1, s => takeWithheld n (secondAdvance { s with clock := { s.clock with withheld := s.clock.withheld - 1 } })

/-- What becomes of a pending time set and of withheld seconds when the part enters TRANSPARENT (R63). -/
def Clock.disposed (c : Clock) : Clock :=
  { c with now := after (c.pendingSet.getD c.now) c.withheld, withheld := 0, pendingSet := none }

end Sys2Proof.Machine
end

