-- ==== Sys2Proof/Machine/RecordOps.lean ====
section
/-! DEFINITION. Layout validation (R78, R79) and the hand-over of fetched records to their owners (R7, R13). -/

namespace Sys2Proof.Machine

/-! ### Rectangles (R77) -/

/-- A rectangle of a panel's frame: `w` columns from `x` and `h` rows from `y`. -/
structure Rect where
  x : Nat
  y : Nat
  w : Nat
  h : Nat
  deriving DecidableEq, Repr

/-- Whether two rectangles share a pixel. -/
def Rect.meets (a b : Rect) : Bool :=
  a.x < b.x + b.w && b.x < a.x + a.w && a.y < b.y + b.h && b.y < a.y + a.h
    && 0 < a.w && 0 < b.w && 0 < a.h && 0 < b.h

/-- Whether a rectangle lies inside a frame. -/
def Rect.inside (r : Rect) (width height : Nat) : Bool := r.x + r.w ≤ width && r.y + r.h ≤ height

/-- The cells of a line as read. -/
def rawCells (r : RawLine) : Nat :=
  match lineKindOf r.kind with
  | some .rosterWide => 48
  | some .rosterNarrow => 16
  | some .clock => 5
  | some .notice => r.width
  | _ => 0

/-- Whether a line as read is a text line. -/
def rawText (r : RawLine) : Bool :=
  match lineKindOf r.kind with
  | some k => k.isText
  | none => false

/-- Whether a line as read is the trailer line. -/
def rawTrailer (r : RawLine) : Bool := lineKindOf r.kind == some .trailer

/-- The stream a TRAILER line as read names. -/
def rawStream (s : State) (r : RawLine) : StreamDesc := s.setup.streams.get (Fin.ofNat 4 r.stream)

/-- The rectangle of a line as read (R77). -/
def rawRect (s : State) (r : RawLine) : Rect :=
  if rawTrailer r then { x := r.x, y := r.y, w := (rawStream s r).width, h := (rawStream s r).height }
  else { x := r.x, y := r.y, w := 16 * rawCells r, h := 32 }

/-! ### The cases of R78 -/

/-- RANGE for a line descriptor (R76, R78 case 2). -/
def lineOutOfRange (r : RawLine) : Bool :=
  match lineKindOf r.kind with
  | none => true
  | some .unused => false
  | some .trailer => 3 < r.stream || r.x % 32 != 0
  | some k =>
    (k != .clock && 15 < r.rank) || 15 < r.normal || 15 < r.alt || 15 < r.soldOut || 15 < r.started
      || r.x % 16 != 0 || (k == .notice && (r.width == 0 || 48 < r.width))

/-- The first line of a layout record that `bad` picks; `bad` is given the lines before it (log 17). -/
def firstLine (bs : List Byte) (bad : List RawLine → RawLine → Bool) : Option Nat :=
  (List.range 16).find? fun n => bad ((List.range n).map (rawLine bs)) (rawLine bs n)

/-- Whether two lines overlap where R78 case 6 forbids it. -/
def linesOverlap (s : State) (a b : RawLine) : Bool :=
  (rawText a || rawText b) && (rawText a || rawTrailer a) && (rawText b || rawTrailer b)
    && (rawRect s a).meets (rawRect s b)

/-- Whether two lines have the same rank where R78 case 7 forbids it. -/
def sameRank (a b : RawLine) : Bool :=
  let roster := fun (r : RawLine) => lineKindOf r.kind == some .rosterWide || lineKindOf r.kind == some .rosterNarrow
  let note := fun (r : RawLine) => lineKindOf r.kind == some .notice
  a.rank == b.rank && ((roster a && roster b) || (note a && note b))

/-- The banner band of a layout record, cut off at the panel's width (R77). -/
def bandRect (b : BannerSpec) (width : Nat) : Rect :=
  { x := b.x, y := b.y, w := min (b.x + 768) width - b.x, h := 32 }

/-- Whether the banner spec lies outside the frame (R78 case 5). -/
def bannerOutside (b : BannerSpec) (g : PanelGeom) : Bool := b.enabled && (g.width ≤ b.x || g.height < b.y + 32)

/-- Whether the band shares a pixel with the trailer region (R78 case 8). -/
def bandMeetsTrailer (s : State) (bs : List Byte) (g : PanelGeom) : Bool :=
  let b := bannerSpecOf bs
  b.enabled && (List.range 16).any fun n =>
    rawTrailer (rawLine bs n) && (bandRect b g.width).meets (rawRect s (rawLine bs n))

/-- The refusal of a layout record: the reason's code, and the line index or 255 for the banner spec (R78, R79, R188).
`none` as line stands for the line that R79 leaves unstated under PANEL_DISABLED. -/
def layoutRefusal (s : State) (p : PanelIx) (bs : List Byte) : Option (Nat × Option Nat) :=
  let g := s.setup.panels.get p
  let b := bannerSpecOf bs
  if !g.enabled then some (1, none)
  else
    ((firstLine bs fun _ r => lineOutOfRange r).map fun n => (2, some n)).orElse fun _ =>
    (if b.enabled && 8 < b.dim then some (2, some 255) else none).orElse fun _ =>
    ((firstLine bs fun before r => rawTrailer r && before.any rawTrailer).map fun n => (3, some n)).orElse fun _ =>
    ((firstLine bs fun _ r => rawTrailer r && !(rawStream s r).enabled).map fun n => (4, some n)).orElse fun _ =>
    ((firstLine bs fun _ r => (rawText r || rawTrailer r) && !(rawRect s r).inside g.width g.height).map fun n =>
      (5, some n)).orElse fun _ =>
    (if bannerOutside b g then some (5, some 255) else none).orElse fun _ =>
    ((firstLine bs fun before r => before.any (linesOverlap s r)).map fun n => (6, some n)).orElse fun _ =>
    ((firstLine bs fun before r => before.any (sameRank r)).map fun n => (7, some n)).orElse fun _ =>
    if bandMeetsTrailer s bs g then some (8, some 255) else none

/-- LAYOUT_REFUSED is reported (R79). -/
def refuseLayout (s : State) (p : PanelIx) (reason : Nat) (line : Option Nat) : State :=
  match line with
  | some n => raise s .layoutRefused (le8 p.val) (le8 reason ++ le8 n)
  | none => raise (drawFree s 1) .layoutRefused (le8 p.val) (le8 reason ++ [freeByteOf s])

/-- A layout record is handed to the Roster Unit (R79, R80). -/
def handLayout (s : State) (p : PanelIx) (bs : List Byte) : State :=
  match layoutRefusal s p bs with
  | some (reason, line) => refuseLayout s p reason line
  | none => acceptLayout s p (layoutOf bs)

/-- A layout record is built (R95): a refused one leaves the empty layout, which the build starts from. -/
def buildLayout (s : State) (p : PanelIx) (bs : List Byte) : State :=
  match layoutRefusal s p bs with
  | some (reason, line) => refuseLayout s p reason line
  | none => installLayout s p (layoutOf bs)

/-! ### Titles (R81) -/

/-- A title entry is stored. -/
def storeTitle (s : State) (t : TitleIx) (x : Title) : State :=
  { s with roster := { s.roster with titles := setAt s.roster.titles t x } }

/-- A title record is handed to the Roster Unit (R81). -/
def handTitle (s : State) (t : TitleIx) (bs : List Byte) : State := recomputeTitle (storeTitle s t (titleRec bs)) t

/-! ### Hand-over (R7, R13) -/

/-- A fetched record's content is handed to its owner (R13). -/
def handRecord (s : State) (r : RecordId) (bs : List Byte) : State :=
  match r with
  | .showing i => handShowing s i bs
  | .notice n => handNotice s n bs
  | .layout p => handLayout s p bs
  | .title t => handTitle s t bs
  | .catalog e => handCatalog s e bs
  | .rotation i => handRotation s i bs

end Sys2Proof.Machine
end

