-- ==== Sys2Proof/Machine/CommitOps.lean ====
section
/-! DEFINITION. Commits and observed fields (section 1.3): what a write's commit record does when it is taken. -/

namespace Sys2Proof.Machine

/-! ### Table records (R7, R12) -/

/-- The Commit Unit after a commit of a record (R12). -/
def CommitUnit.note (c : CommitUnit) (r : RecordId) : CommitUnit :=
  match c.fetch.get r with
  | .idle => { c with queue := c.queue ++ [r], fetch := c.fetch.set r .queued }
  | .queued => c
  | .fetching => { c with fetch := c.fetch.set r .stale }
  | .stale => c

/-- A written revision is taken (R7): a value that differs from the last-accepted one commits the record. -/
def commitRecord (s : State) (r : RecordId) (v : Byte) : State :=
  if s.commit.revs.get r = v then s
  else { s with commit := { s.commit with revs := s.commit.revs.set r v }.note r }

/-! ### Observed fields (R11) -/

/-- A written consumer index is taken (R168). -/
def consumerWritten (s : State) (v : Byte) : State :=
  { s with reports := { s.reports with c := BitVec.ofNat 6 v.toNat } }

/-- A written overflow byte is taken (R11, R168, log 29). -/
def overflowWritten (s : State) (v : Byte) : State :=
  if v = 0 then markReportHeader { s with reports := { s.reports with overflow := false } } else s

/-- A written restart sequence byte is taken (R11, R180). -/
def restartWritten (s : State) (v : Byte) : State :=
  if s.commit.lastRestart = v then s
  else requestRestart { s with commit := { s.commit with lastRestart := v } }

/-- The lobby time that the four value bytes give (R71). -/
def timeValue (bs : List Byte) : LobbyTime := BitVec.ofNat 20 (u32 bs 0)

/-- PARTIAL_WRITE is reported (R10, R11, codes of R188). -/
def partialWrite (s : State) (addr mark : Nat) : State := raise s .partialWrite (le32 addr) (le8 mark)

/-- A written time-set word is taken (R11, R71, R72). -/
def timeSetWritten (s : State) (rev : Byte) (value : Option (List Byte)) : State :=
  if s.commit.lastTimeSet = rev then s
  else
    match value with
    | none => partialWrite s (timeSetAddr s) 1
    | some bs =>
      let s1 := { s with commit := { s.commit with lastTimeSet := rev } }
      if s.rebuilding then keepTimeSet s1 (timeValue bs) else setTime s1 (timeValue bs)

/-- A written frame tag is taken (R10). -/
def tagWritten (s : State) (i : StreamIx) (k : FrameIx) (addr : Nat) (bytes : Option (List Byte)) : State :=
  match bytes with
  | some bs => tagCommit s i k bs
  | none => partialWrite s addr 0

/-! ### By part state (R16, R17, R164) -/

/-- Whether a commit is detected in a part state (R17, R164). -/
def detects (part : PartState) (i : CommitItem) : Bool :=
  match part, i with
  | .running, _ => true
  | .quiet, _ => true
  | .transparent, .restart _ => true
  | .building, .restart _ => true
  | .building, .timeSet _ _ => true
  | .building, .tag _ _ _ _ => true
  | .restarting, .restart _ => true
  | .restarting, .timeSet _ _ => true
  | .restarting, .tag _ _ _ _ => true
  | _, _ => false

/-- A commit or an observed field is taken (R6 to R11). -/
def takeItem (s : State) (i : CommitItem) : State :=
  if detects s.part i then
    match i with
    | .revision r v => commitRecord s r v
    | .lap slot v => lapWritten s slot v
    | .consumer v => consumerWritten s v
    | .overflow v => overflowWritten s v
    | .restart v => restartWritten s v
    | .timeSet rev value => timeSetWritten s rev value
    | .tag st k addr bytes => tagWritten s st k addr bytes
  else s

/-- A write's commits are taken in ascending address order (R6). -/
def takeItems (s : State) (l : List CommitItem) : State := l.foldl takeItem s

/-- What a forwarded write's commit record holds (R6, R157 step 2). -/
def recordedItems (s : State) (cls : ReqClass) (b : Burst) : List CommitItem :=
  if b.isWrite then (coveredItems s cls b).filter (detects s.part) else []

end Sys2Proof.Machine
end

