-- ==== Sys2Proof/Machine/Arbiter.lean ====
section
/-! DEFINITION. The part's own requests: what each requester offers (R12, R15, R42, R101, R102, R119, R162, R167, R176,
R178), and the memory-side arbiter (R157, R163). -/

namespace Sys2Proof.Machine

/-! ### Write-backs (R3, R15, R34, R145, R187) -/

/-- Lanes that enable every byte. -/
def allOn (bs : List Byte) : List (Option Byte) := bs.map some

/-- A beat whose first bytes are enabled and the others not. -/
def beatOf (bs : List Byte) : List (Option Byte) := (allOn bs ++ List.replicate 8 none).take 8

/-- The write of a write-back, with the values as they stand (R15). -/
def writeBackBurst (s : State) : WriteBack → Burst
  | .showing i => writeBurst (s.setup.windows.showings + 64 * i.val + 32) (allOn (seatBytes (s.seats.entries.get i)))
  | .journal => writeBurst s.setup.windows.journal (beatOf (journalHeaderBytes s.journal))
  | .stream i => writeBurst (s.setup.windows.trailers + 2048 + 16 * i.val) (allOn (statusBytes s i))

/-- The report header write, with the values as they stand (R167). -/
def reportHeaderBurst (s : State) : Burst :=
  writeBurst s.setup.windows.reports (beatOf (reportHeaderBytes s.reports))

/-- The write of a record to slot P (R167, R188). -/
def reportRecordBurst (s : State) (r : Report) : Burst :=
  writeBurst (s.setup.windows.reports + 64 + 16 * s.reports.p.toNat) (allOn r.bytes)

/-! ### Row writes (R101) -/

/-- The 16 pixels of a row of a glyph in a paint's colours (R101). -/
def rowPixels (p : Paint) (r : Nat) : List Byte :=
  (List.range 16).flatMap fun k => (if glyphBit p.glyph r k then p.fg else p.bg).bytes

/-- The address of a row write (R101). -/
def rowAddr (p : Paint) (r : Nat) : Nat := p.base + (p.y + r) * p.stride + (p.x + 16 * p.ref.cell.val) * 4

/-- A row write (R101). -/
def rowBurst (p : Paint) (r : Nat) : Burst := writeBurst (rowAddr p r) (allOn (rowPixels p r))

/-! ### Loads (R176, R178) -/

/-- One read of the build: the table and the number of its 128-byte block (R178). -/
inductive BuildItem where
  | showings (k : Nat)
  | journal  (k : Nat)
  | titles   (k : Nat)
  | layouts  (k : Nat)
  | notices  (k : Nat)
  | catalog  (k : Nat)
  | rotation (k : Nat)
  deriving DecidableEq, Repr

/-- How many reads the build makes of the journal (R58). -/
def journalReads (resume : Bool) : Nat := if resume then 9 else 0

/-- The tables read after the journal, in the order of R178. -/
def laterItem (k : Nat) : Option BuildItem :=
  if k < 16 then some (.titles k)
  else if k < 112 then some (.layouts (k - 16))
  else if k < 128 then some (.notices (k - 112))
  else if k < 134 then some (.catalog (k - 128))
  else if k < 136 then some (.rotation (k - 134))
  else none

/-- Read `k` of the build, in the order of R178 (log 13). -/
def buildItem (resume : Bool) (k : Nat) : Option BuildItem :=
  if k < 128 then some (.showings k)
  else if k - 128 < journalReads resume then some (.journal (k - 128))
  else laterItem (k - 128 - journalReads resume)

/-- How many reads the build makes. -/
def buildTotal (resume : Bool) : Nat := 264 + journalReads resume

/-- The burst of a build read. -/
def buildBurst (s : State) : BuildItem → Burst
  | .showings k => readBurst (s.setup.windows.showings + 128 * k) 16
  | .journal k => readBurst (s.setup.windows.journal + 128 * k) (if k = 8 then 8 else 16)
  | .titles k => readBurst (s.setup.windows.text + 16384 + 128 * k) 16
  | .layouts k => readBurst (s.setup.windows.layouts + 128 * k) 16
  | .notices k => readBurst (s.setup.windows.notices + 128 * k) 16
  | .catalog k => readBurst (s.setup.windows.trailers + 128 * k) 16
  | .rotation k => readBurst (s.setup.windows.trailers + 1024 + 128 * k) 16

/-- Read `k` of the Setup Block (R176). -/
def setupBurst (s : State) (k : Nat) : Burst := readBurst (s.setupBase + 128 * k) 16

/-! ### The Commit Unit's offers -/

/-- How many bursts of a record's fetch have been issued. -/
def issuedOf (s : State) (r : RecordId) : Nat :=
  match s.commit.fetches.find? fun f => f.record == r with
  | some f => f.issued
  | none => 0

/-- Whether a write-back is in its queue. -/
def inWbQueue (c : CommitUnit) : WriteBack → Bool
  | .showing i => i ∈ c.wbShowings
  | .journal => c.wbJournal
  | .stream i => i ∈ c.wbStreams

/-- The head of a write-back queue. -/
def wbHead (c : CommitUnit) : WbQueue → Option WriteBack
  | .showings => c.wbShowings.head?.map .showing
  | .journal => if c.wbJournal then some .journal else none
  | .streams => c.wbStreams.head?.map .stream

/-- The three queues in turn, from the one after the last served (R15). -/
def wbTurn : WbQueue → List WbQueue
  | .showings => [.journal, .streams, .showings]
  | .journal => [.streams, .showings, .journal]
  | .streams => [.showings, .journal, .streams]

/-- The next write-back in turn, passing over empty queues (R15). -/
def nextWriteBack (c : CommitUnit) : Option WriteBack := (wbTurn c.wbLast).findSome? (wbHead c)

/-- The queue a write-back comes from. -/
def WriteBack.queue : WriteBack → WbQueue
  | .showing _ => .showings
  | .journal => .journal
  | .stream _ => .streams

/-- A record fetch may be issued (R12): fewer than four are outstanding, those whose timer has expired not counted
(log 51). -/
def fetchReady (s : State) : Bool := s.active && !s.commit.queue.isEmpty && s.commit.fetches.length < 4

/-- The tail fetch may be issued (R42). -/
def journalReady (s : State) : Bool := s.active && s.journal.marks.get s.journal.tail && s.journal.fetch == .none

/-- A write-back may be issued (R15, R17). One whose timer has expired is no longer outstanding here, though memory may
still answer it (DEDUCED from R159 and R160, log 51). -/
def writeBackReady (s : State) : Bool := s.part == .running && liveCount s OwnPurpose.isWriteBack == 0

/-- Whether an offer of the Commit Unit still stands. -/
def commitOfferStands (s : State) : CommitOffer → Bool
  | .fetch => fetchReady s
  | .burst r => s.active && 0 < issuedOf s r && issuedOf s r < (fetchShape r).1
  | .journal => journalReady s
  | .writeBack w => writeBackReady s && inWbQueue s.commit w

/-- The requests of the Commit Unit that are ready, in the order in which one rule readies them (log 8). -/
def commitReady (s : State) : List CommitOffer :=
  (if fetchReady s then [.fetch] else [])
    ++ (if journalReady s then [.journal] else [])
    ++ (if writeBackReady s then
        match nextWriteBack s.commit with
        | some w => [.writeBack w]
        | none => []
      else [])

/-- Whether an offer is for a write-back. -/
def CommitOffer.isWriteBack : CommitOffer → Bool
  | .writeBack _ => true
  | _ => false

/-- A newly ready request joins the offers, unless one of its kind is there (R163: in the order in which they became
ready). -/
def joinOffers (l : List CommitOffer) (o : CommitOffer) : List CommitOffer :=
  if o ∈ l ∨ (o.isWriteBack = true ∧ l.any CommitOffer.isWriteBack = true) then l else l ++ [o]

/-- The Commit Unit's offers after a rule: those that stand keep their order, and new ones join behind (R162, R163). -/
def commitOffers (s : State) : List CommitOffer :=
  (commitReady s).foldl joinOffers (s.offers.commit.filter (commitOfferStands s))

/-! ### The Cell Painter's offers (R101, R102, R107) -/

/-- Whether a paint waits to issue its glyph read. -/
def wantsGlyph (s : State) (p : Paint) : Bool := s.active && p.stage == .glyph && !p.glyphIssued

/-- Whether a paint has issued all its rows or has stopped issuing (R102). -/
def Paint.doneIssuing (p : Paint) : Bool :=
  p.stage == .ended || (p.stage == .rows && (p.rowsIssued == 32 || p.interrupted))

/-- Whether a paint waits to issue a row write, less the order of R102. -/
def wantsRow (s : State) (p : Paint) : Bool :=
  s.part == .running && p.stage == .rows && p.rowsIssued < 32 && !p.interrupted

/-- The first paint, in take order, that may issue a row write (R102). -/
def rowPaint (s : State) : List Paint → Option Paint
  | [] => none
  | p :: ps => if wantsRow s p then some p else if p.doneIssuing then rowPaint s ps else none

/-- Whether an offer of the Cell Painter still stands. -/
def paintOfferStands (s : State) : PaintOffer → Bool
  | .glyph k => s.painter.slots.any fun p => p.slot == k && wantsGlyph s p
  | .row k =>
    match rowPaint s s.painter.slots with
    | some p => p.slot == k
    | none => false

/-- The Cell Painter's next request: a glyph read before a row write (R102, log 37). -/
def newPaintOffer (s : State) : Option PaintOffer :=
  match s.painter.slots.find? (wantsGlyph s) with
  | some p => some (.glyph p.slot)
  | none => (rowPaint s s.painter.slots).map fun p => .row p.slot

/-- The Cell Painter's offer after a rule (R162). -/
def paintOffer (s : State) : Option PaintOffer :=
  match s.offers.painter with
  | some o => if paintOfferStands s o then some o else newPaintOffer s
  | none => newPaintOffer s

/-! ### The Report Unit's offers (R167) -/

/-- The Report Unit may issue a write (R167, log 33). -/
def reportReady (s : State) : Bool := s.active && liveCount s OwnPurpose.isReport == 0

/-- Whether an offer of the Report Unit still stands. -/
def reportOfferStands (s : State) : ReportOffer → Bool
  | .header => reportReady s && s.reports.headerQueued
  | .record => reportReady s && !s.reports.queue.isEmpty

/-- The Report Unit's next request (R167). -/
def newReportOffer (s : State) : Option ReportOffer :=
  if !reportReady s then none
  else if s.reports.headerQueued then some .header
  else if s.reports.queue.isEmpty then none else some .record

/-- The request of an offer of the Report Unit. -/
def reportRequest (s : State) : ReportOffer → Option (OwnPurpose × Burst)
  | .header => some (.reportHeader, reportHeaderBurst s)
  | .record => s.reports.queue.head?.map fun r => (.reportRecord, reportRecordBurst s r)

/-- Whether an offer of the Report Unit is held by the block hazard rule (R162). -/
def reportHeld (s : State) (o : ReportOffer) : Bool :=
  match reportRequest s o with
  | some x => hazard s x.2.addr
  | none => false

/-- The Report Unit's offer after a rule: chosen anew (R167), but for a request that the block hazard rule holds, which
stays its next (R162, log 9). -/
def reportOffer (s : State) : Option ReportOffer :=
  match s.offers.report with
  | some o => if reportOfferStands s o && reportHeld s o then some o else newReportOffer s
  | none => newReportOffer s

/-- Every rule ends with the requesters choosing their next requests (R162, R163, logs 8 and 9). -/
def settle (s : State) : State :=
  { s with offers := { commit := commitOffers s, painter := paintOffer s, report := reportOffer s } }

/-! ### Own requests (R158, R162, R163) -/

/-- The request of an offer of the Commit Unit. -/
def commitRequest (s : State) : CommitOffer → Option (OwnPurpose × Burst)
  | .fetch => s.commit.queue.head?.map fun r => (.commitFetch r 0, fetchBurst s r 0)
  | .burst r => some (.commitFetch r (issuedOf s r), fetchBurst s r (issuedOf s r))
  | .journal => some (.journalFetch, readBurst (s.setup.windows.journal + 64 + 16 * s.journal.tail.val) 2)
  | .writeBack w => some (.writeBack w, writeBackBurst s w)

/-- The paint in a slot. -/
def paintIn (s : State) (k : Fin 2) : Option Paint := s.painter.slots.find? fun p => p.slot == k

/-- The request of an offer of the Cell Painter. -/
def paintRequest (s : State) : PaintOffer → Option (OwnPurpose × Burst)
  | .glyph k => (paintIn s k).map fun p => (.glyphRead k, readBurst (glyphAddr s p.target.code) 8)
  | .row k => (paintIn s k).map fun p => (.rowWrite k p.rowsIssued, rowBurst p p.rowsIssued)

/-- Start and Containment's next read (R176, R178). -/
def startRequest (s : State) : Option (OwnPurpose × Burst) :=
  match s.start.stage with
  | .setupReads =>
    if (s.part = .loading ∨ s.part = .restarting) ∧ s.start.setupIssued < 32 then
      some (.setupRead s.start.setupIssued, setupBurst s s.start.setupIssued)
    else none
  | .build =>
    if s.rebuilding then
      (buildItem s.start.resume s.start.buildIssued).map fun b => (.buildRead s.start.buildIssued, buildBurst s b)
    else none
  | _ => none

/-- The code of a FILLING entry awaiting its fetch. -/
def fillingCode (s : State) (e : CacheIx) : Byte :=
  match (s.notices.cache.get e).fill with
  | .filling c => c
  | .held c _ => c
  | .empty => 0

/-- The Notice Unit's next request (R119). -/
def noticeRequest (s : State) : Option (OwnPurpose × Burst) :=
  if s.active && liveCount s OwnPurpose.isGlyphFetch < 4 then
    s.notices.fetchList.head?.map fun e => (.glyphFetch e, readBurst (glyphAddr s (fillingCode s e)) 8)
  else none

/-- The request a requester offers (R163). -/
def ownRequest (s : State) : Requester → Option (OwnPurpose × Burst)
  | .start => startRequest s
  | .commit => s.offers.commit.head?.bind (commitRequest s)
  | .painter => s.offers.painter.bind (paintRequest s)
  | .notice => noticeRequest s
  | .report => s.offers.report.bind (reportRequest s)

/-- A requester has a ready request: it offers one, the block is not listed, and an own tag is free (R163). -/
def ownReady (s : State) (r : Requester) : Bool :=
  match ownRequest s r with
  | some x => !hazard s x.2.addr && (freeOwnTag s).isSome
  | none => false

/-! ### The head of the forward queue (R157) -/

/-- The forwarded address of a request (R157 step 1). -/
def forwardedAddr (e : InFlight) : BitVec 32 :=
  match e.plan with
  | .redirect a => a
  | _ => e.burst.addr

/-- Whether a request is a window write held in BUILDING and RESTARTING (R16). -/
def heldWrite (s : State) (e : InFlight) : Bool :=
  s.rebuilding && e.burst.isWrite &&
    match e.cls with
    | .windowRecord _ _ => true
    | .windowUnused _ => true
    | _ => false

/-- The head of the forward queue with its in-flight entry. -/
def headEntry (s : State) : Option (CtlTag × InFlight) :=
  s.traffic.queue.head?.bind fun t => (s.traffic.inflight.get t).map fun e => (t, e)

/-- Whether the head of the forward queue is ready for the arbiter (R157). -/
def headReady (s : State) : Bool :=
  match headEntry s with
  | some (t, e) => !heldWrite s e && (s.traffic.tags.get (memTagOf t)).isNone && !hazard s (forwardedAddr e)
  | none => false

/-! ### The arbiter (R163) -/

/-- The requesters in round-robin order from the one after the place (R163). -/
def roundRobin : Requester → List Requester
  | .start => [.commit, .painter, .notice, .report, .start]
  | .commit => [.painter, .notice, .report, .start, .commit]
  | .painter => [.notice, .report, .start, .commit, .painter]
  | .notice => [.report, .start, .commit, .painter, .notice]
  | .report => [.start, .commit, .painter, .notice, .report]

/-- The own requester that round robin picks. -/
def ownPick (s : State) : Option Requester := (roundRobin s.traffic.place).find? (ownReady s)

/-- A grant. -/
inductive Grant where
  | controller
  | own (r : Requester)
  deriving DecidableEq, Repr

/-- The arbiter's choice (R163). -/
def arbiterPick (s : State) : Option Grant :=
  match headReady s, ownPick s with
  | true, some r => if s.traffic.grants < 8 then some .controller else some (.own r)
  | true, none => some .controller
  | false, some r => some (.own r)
  | false, none => none

/-- The grant count after a controller grant (R163). -/
def grantsAfter (s : State) : Nat := if (ownPick s).isSome then s.traffic.grants + 1 else 0

/-! ### Issue of an own request (R158) -/

/-- An entry of the fetches under way is changed. -/
def modFetch (l : List Fetch) (r : RecordId) (f : Fetch → Fetch) : List Fetch :=
  l.map fun x => if x.record = r then f x else x

/-- The Commit Unit after the issue of a burst of a record's fetch (R12). -/
def CommitUnit.fetchIssued (c : CommitUnit) (r : RecordId) (k : Nat) : CommitUnit :=
  if k = 0 then
    { c with
      queue := c.queue.tail
      fetch := c.fetch.set r .fetching
      fetches := c.fetches ++ [{ record := r, issued := 1, taken := [] }] }
  else { c with fetches := modFetch c.fetches r fun x => { x with issued := k + 1 } }

/-- The Commit Unit after the issue of a write-back: the record leaves its queue (R15). -/
def CommitUnit.wbIssued (c : CommitUnit) (w : WriteBack) : CommitUnit :=
  let c1 := { c with wbLast := w.queue }
  match w with
  | .showing i => { c1 with wbShowings := c1.wbShowings.filter fun j => j != i }
  | .journal => { c1 with wbJournal := false }
  | .stream i => { c1 with wbStreams := c1.wbStreams.filter fun j => j != i }

/-- The Commit Unit's offers after the grant of its next request: a fetch of several bursts goes on with its next. -/
def grantedOffers (l : List CommitOffer) (r : RecordId) (k : Nat) : List CommitOffer :=
  if k + 1 < (fetchShape r).1 then .burst r :: l.tail else l.tail

/-- The offers less the Commit Unit's first. -/
def dropCommitOffer (s : State) : State := { s with offers := { s.offers with commit := s.offers.commit.tail } }

/-- The paint in a slot is changed. -/
def modPaint (s : State) (k : Fin 2) (f : Paint → Paint) : State :=
  { s with painter := { s.painter with slots := s.painter.slots.map fun p => if p.slot = k then f p else p } }

/-- What the requester notes as its request is issued. -/
def noteIssued (s : State) : OwnPurpose → State
  | .setupRead k => { s with start := { s.start with setupIssued := k + 1 } }
  | .buildRead k => { s with start := { s.start with buildIssued := k + 1 } }
  | .commitFetch r k =>
    { s with
      commit := s.commit.fetchIssued r k
      offers := { s.offers with commit := grantedOffers s.offers.commit r k } }
  | .journalFetch => dropCommitOffer { s with journal := { s.journal with fetch := .fetching } }
  | .writeBack w => dropCommitOffer { s with commit := s.commit.wbIssued w }
  | .glyphRead k =>
    modPaint { s with offers := { s.offers with painter := none } } k fun p => { p with glyphIssued := true }
  | .rowWrite k r =>
    modPaint { s with offers := { s.offers with painter := none } } k fun p => { p with rowsIssued := r + 1 }
  | .glyphFetch _ => { s with notices := { s.notices with fetchList := s.notices.fetchList.tail } }
  | .reportRecord => { s with offers := { s.offers with report := none } }
  | .reportHeader =>
    { s with
      reports := { s.reports with headerQueued := false }
      offers := { s.offers with report := none } }

/-- The round-robin place and the grant count after an own grant (R163). -/
def ownGranted (s : State) (r : Requester) : State :=
  { s with traffic := { s.traffic with grants := 0, place := r } }

/-- An own request is granted and issued under the lowest free own tag (R158, R163). -/
def grantOwn (s : State) (r : Requester) (p : OwnPurpose) (b : Burst) : State :=
  match freeOwnTag s with
  | some t => noteIssued (issue (ownGranted s r) t b (.own p s.traffic.cycles .live)) p
  | none => s

/-- The request that the arbiter grants now, if its choice is a requester whose request `mine` picks. -/
def grantable (s : State) (mine : OwnPurpose → Bool) : Option (Requester × OwnPurpose × Burst) :=
  match arbiterPick s with
  | some (.own r) =>
    match ownRequest s r with
    | some (p, b) => if mine p then some (r, p, b) else none
    | none => none
  | _ => none

/-- The step that issues a kind of own request: the arbiter's grant of it (log 7). -/
def issueOwn (s : State) (mine : OwnPurpose → Bool) : State :=
  match grantable s mine with
  | some (r, p, b) => if s.resetN then settle (grantOwn s r p b) else s
  | none => s

end Sys2Proof.Machine
end

