-- ==== Sys2Proof/Machine/StartOps.lean ====
section
/-! DEFINITION. The Setup Block, the build and the restart (Chapter 12). -/

namespace Sys2Proof.Machine

/-! ### The Setup Block's fields (R183) -/

/-- The window bases. -/
def windowsOf (bs : List Byte) : Windows :=
  { showings := u32 bs 8, journal := u32 bs 12, notices := u32 bs 16, layouts := u32 bs 20, text := u32 bs 24,
    trailers := u32 bs 28, reports := u32 bs 32 }

/-- Panel geometry entry `p`. -/
def panelOf (bs : List Byte) (p : Nat) : PanelGeom :=
  let o := 128 + 16 * p
  { enabled := flagAt bs o, width := u16 bs (o + 2), height := u16 bs (o + 4), base := u32 bs (o + 8),
    stride := u32 bs (o + 12) }

/-- Stream descriptor `i`. -/
def streamOf (bs : List Byte) (i : Nat) : StreamDesc :=
  let o := 512 + 32 * i
  { enabled := flagAt bs o, width := u16 bs (o + 2), height := u16 bs (o + 4), stride := u32 bs (o + 8),
    slots := tab fun k => u32 bs (o + 12 + 4 * k.val) }

/-- The values taken from an accepted block, clamped as R177 states. -/
def setupOf (bs : List Byte) : Setup :=
  { windows := windowsOf bs
    mode := (modeOf (u8 bs 5)).getD .report
    origin := u16 bs 44 % 1440
    lead := min (u16 bs 46) 3600
    grace := min (u16 bs 48) 3600
    gap := max 10 (min (u16 bs 50) 1000)
    panels := tab fun p => panelOf bs p.val
    streams := tab fun i => streamOf bs i.val }

/-- The NCO step, clamped to 1–2^31 (R60). -/
def stepOf (bs : List Byte) : BitVec 32 := BitVec.ofNat 32 (max 1 (min (u32 bs 36) 2147483648))

/-- The initial lobby time (R177). -/
def initialTime (bs : List Byte) : LobbyTime := BitVec.ofNat 20 (u32 bs 40)

/-! ### The checks of R177 -/

/-- Identity. -/
def identityOk (bs : List Byte) : Bool := u32 bs 0 == 0x34325752 && u8 bs 4 == 1

/-- A range does not reach past address 2^32 − 1. -/
def reachesOk (base size : Nat) : Bool := base + size ≤ 4294967296

/-- Windows. -/
def windowsOk (w : Windows) : Bool :=
  Window.all.all fun x => w.base x % x.size == 0 && reachesOk (w.base x) x.size

/-- Panel geometry of an enabled entry. -/
def panelOk (g : PanelGeom) : Bool :=
  !g.enabled ||
    (g.base % 128 == 0 && 16 ≤ g.width && g.width ≤ 1920 && g.width % 16 == 0 && 32 ≤ g.height && g.height ≤ 1088
      && g.stride % 128 == 0 && g.width * 4 ≤ g.stride && reachesOk g.base g.size)

/-- A stream descriptor of an enabled entry. -/
def streamOk (d : StreamDesc) : Bool :=
  !d.enabled ||
    (32 ≤ d.width && d.width ≤ 1920 && d.width % 32 == 0 && 1 ≤ d.height && d.height ≤ 1088 && d.stride % 128 == 0
      && d.width * 4 ≤ d.stride
      && (List.finRange 4).all fun k => d.slots.get k % 128 == 0 && reachesOk (d.slots.get k) (d.area + 128))

/-- The ranges of enabled panels' frames. -/
def frameRanges (c : Setup) : List (Nat × Nat) :=
  (List.finRange 24).filterMap fun p =>
    let g := c.panels.get p
    if g.enabled then some (g.base, g.size) else none

/-- The ranges of enabled streams' slots, each with its tag block. -/
def slotRanges (c : Setup) : List (Nat × Nat) :=
  (List.finRange 4).flatMap fun i =>
    let d := c.streams.get i
    if d.enabled then (List.finRange 4).map fun k => (d.slots.get k, d.area + 128) else []

/-- All the ranges that R177 keeps apart. -/
def allRanges (base : Nat) (c : Setup) : List (Nat × Nat) :=
  (base, 4096) :: Window.all.map (fun w => (c.windows.base w, w.size)) ++ frameRanges c ++ slotRanges c

/-- Two ranges share no byte. -/
def apart (a b : Nat × Nat) : Bool := a.1 + a.2 ≤ b.1 || b.1 + b.2 ≤ a.1

/-- No two ranges of a list share a byte. -/
def allApart : List (Nat × Nat) → Bool
  | [] => true
  | a :: l => l.all (apart a) && allApart l

/-- Whether a Setup Block read at `base` is accepted (R177). -/
def setupOk (base : Nat) (bs : List Byte) : Bool :=
  let c := setupOf bs
  identityOk bs && (modeOf (u8 bs 5)).isSome && windowsOk c.windows
    && ((List.finRange 24).all fun p => panelOk (c.panels.get p))
    && ((List.finRange 4).all fun i => streamOk (c.streams.get i))
    && allApart (allRanges base c)

/-! ### Taking the values (R177, R75, R11) -/

/-- The data of reads 0 to n − 1 in address order, if all are there and OK. -/
def joinReads (l : List (Nat × ReadResult)) (n : Nat) : Option (List Byte) :=
  (List.range n).foldr (fun k acc =>
    match resultOf l k, acc with
    | some (.ok d), some ds => some (d ++ ds)
    | _, _ => none) (some [])

/-- The clock as a load starts it (R75): no time set is pending, also one that a restart without a running clock has
kept (DESIGN CHOICE, log 49). -/
def Clock.started (c : Clock) (bs : List Byte) : Clock :=
  { c with running := true, acc := 0, step := some (stepOf bs), sub := 0, now := initialTime bs, secondsDue := 0,
           withheld := 0, pendingSet := none }

/-- The clock after an accepted block: a running clock takes the step and keeps the rest (R60, R75). -/
def Clock.loaded (c : Clock) (bs : List Byte) : Clock :=
  if c.running then { c with step := some (stepOf bs) } else c.started bs

/-- The values of an accepted block are taken (R177): the ranges, the values, the clock's step, the last-seen command
words (R11), and the slot records of R154. -/
def takeValues (s : State) (bs : List Byte) : State :=
  { s with
    decoder := .all
    setup := setupOf bs
    clock := s.clock.loaded bs
    commit := { s.commit with lastRestart := byteAt bs 3968, lastTimeSet := byteAt bs 3980 }
    trailers := { s.trailers with
      streams := restartStreams s.setup.streams (setupOf bs).streams s.trailers.streams } }

/-- The build starts (R178). -/
def beginBuild (s : State) (resume : Bool) : State :=
  { s with start := { s.start with
      stage := .build, resume := resume, setupIssued := 0, setupGot := [], buildIssued := 0, buildDone := 0,
      buildGot := [], layoutParts := [], posted := [] } }

/-- A refused load: TRANSPARENT, with the Setup Block range alone (R177, R63). A pending time set is written also to a
clock that no load has started (DESIGN CHOICE, log 49), and what the owners clear at an acceptance, the render queue and
the marks among it, stays as it was (DESIGN CHOICE, log 52). -/
def refuseLoad (s : State) : State :=
  let s1 := enterTransparent { s with decoder := .setupOnly, clock := s.clock.disposed }
  { s1 with start := { s1.start with stage := .wait, setupIssued := 0, setupGot := [] } }

/-- An accepted load: BUILDING at power-on; at a warm restart the restart may go on to take the values (R177, R181,
log 12). -/
def acceptLoad (s : State) (bs : List Byte) : State :=
  if s.part = .loading then beginBuild { takeValues s bs with part := .building } (flagAt bs 6)
  else { s with start := { s.start with stage := .accepted bs, setupIssued := 0, setupGot := [] } }

/-- A Setup Block read has ended; after the last of the 32 the load is decided (R176, R177, log 11). -/
def setupReadDone (s : State) (k : Nat) (res : ReadResult) : State :=
  let s1 := { s with start := { s.start with setupGot := s.start.setupGot ++ [(k, res)] } }
  if s1.start.setupGot.length < 32 then s1
  else
    match joinReads s1.start.setupGot 32 with
    | some bs => if setupOk s1.setupBase bs then acceptLoad s1 bs else refuseLoad s1
    | none => refuseLoad s1

/-! ### Clearing at a warm restart (R181 stage 2) -/

/-- The owners clear their state (R18, R59, R69, R95, R109, R124, R139, R154, R175, R181, log 14): among it the fields
and post sequence numbers of the notice entries (DESIGN CHOICE, log 14). -/
def clearOwners (s : State) : State :=
  { s with
    holds := Vector.replicate 64 none
    due := .empty
    commit := s.commit.emptied
    journal := { s.journal with marks := Vector.replicate 64 false, fetch := .none, gapStart := none }
    seats := .initial
    roster := .initial
    painter := .initial
    notices := { NoticeUnit.initial with counter := s.notices.counter }
    scan := Vector.replicate 24 .idle
    trailers := { TrailerUnit.initial with streams := s.trailers.streams }
    reports := { s.reports with headerQueued := false } }

/-! ### Entry to RUNNING (R179) -/

/-- Every enabled stream is cued, in stream order (R151). -/
def cueAll (s : State) : State :=
  (List.finRange 4).foldl (fun t i => if (t.setup.streams.get i).enabled then cueStream t i else t) s

/-- Entry to RUNNING (R179): READY, the cues, the pending time set, the withheld seconds; the gap timer starts if the
condition holds (R46). -/
def enterRunning (s : State) : State :=
  let s1 := raise { s with part := .running, start := { s.start with stage := .wait } } .ready [] []
  let s2 := takePendingSet (cueAll s1)
  updateGap (takeWithheld s2.clock.withheld s2)

/-- The owners mark their records for write-back at the end of the build (R18, R37, R58, R153, R175). -/
def markAll (s : State) : State :=
  let s1 := (List.finRange 256).foldl markShowing s
  (List.finRange 4).foldl markStream (markReportHeader (markJournal s1))

/-! ### Building (R178) -/

/-- A record's last-accepted revision is set from its revision byte as read, 0 after a faulted read (R18, R178). -/
def setRev (s : State) (r : RecordId) (v : Byte) : State :=
  { s with commit := { s.commit with revs := s.commit.revs.set r v } }

/-- One showing of a block (R37, R178). -/
def buildShowingAt (s : State) (i : ShowingIx) (res : Option (List Byte)) : State :=
  match res with
  | some bs => buildShowing (setRev s (.showing i) (byteAt bs 31)) i bs
  | none => buildShowingFault (setRev s (.showing i) 0) i

/-- One title of a block (R81, R95). -/
def buildTitleAt (s : State) (t : TitleIx) (res : Option (List Byte)) : State :=
  match res with
  | some bs => storeTitle (setRev s (.title t) (byteAt bs 31)) t (titleRec bs)
  | none => storeTitle (setRev s (.title t) 0) t .empty

/-- One notice of a block (R123). -/
def buildNoticeAt (s : State) (n : NoticeIx) (res : Option (List Byte)) : State :=
  match res with
  | some bs => buildNotice (setRev s (.notice n) (byteAt bs 63)) n bs
  | none => setRev s (.notice n) 0

/-- One catalog entry of a block (R153). -/
def buildCatalogAt (s : State) (e : CatalogIx) (res : Option (List Byte)) : State :=
  match res with
  | some bs => handCatalog (setRev s (.catalog e) (byteAt bs 15)) e bs
  | none => setRev s (.catalog e) 0

/-- One rotation table of a block (R153). -/
def buildRotationAt (s : State) (i : StreamIx) (res : Option (List Byte)) : State :=
  match res with
  | some bs => handRotation (setRev s (.rotation i) (byteAt bs 63)) i bs
  | none => setRev s (.rotation i) 0

/-- One layout record, from its four reads (R95). -/
def buildLayoutAt (s : State) (p : PanelIx) (res : Option (List Byte)) : State :=
  match res with
  | some bs => buildLayout (setRev s (.layout p) (byteAt bs 511)) p bs
  | none => setRev s (.layout p) 0

/-- The data of a read, if it was answered OK. -/
def ReadResult.data? : ReadResult → Option (List Byte)
  | .ok d => some d
  | .fault => none

/-- The records of one block, each `n` bytes long and built by `f`. -/
def buildBlock (s : State) (n count : Nat) (res : ReadResult) (f : State → Nat → Option (List Byte) → State) : State :=
  (List.range count).foldl (fun t j => f t j (res.data?.map fun d => slice d (n * j) n)) s

/-- The tail and lap are set. -/
def setTail (s : State) (tail : JournalIx) (lap : Lap) : State :=
  { s with journal := { s.journal with tail := tail, lap := lap } }

/-- The journal header as read under resume (R58). -/
def buildHeader (s : State) (bs : List Byte) : State :=
  match indexOrNone 64 (u8 bs 0), lapOf (u8 bs 1) with
  | some t, some l => setTail s t l
  | _, _ =>
    raise (setTail (drawFree s 2) 0 .one) .journalBad
      [Config.freeByte s.free, Config.freeByte (s.free + 1)] (le8 6 ++ [byteAt bs 0, byteAt bs 1])

/-- A slot's mark as built: set when its marker equals the expected one (R58). -/
def buildMark (s : State) (i : JournalIx) (marker : Nat) : State :=
  if marker = (expectedLap s.journal i).code then
    { s with journal := { s.journal with marks := setAt s.journal.marks i true } }
  else s

/-- The slot markers that lie in block `k` of the journal (R58): slot i's at 64 + 16 i + 15. -/
def buildMarks (s : State) (k : Nat) (bs : List Byte) : State :=
  (List.finRange 64).foldl (fun t i =>
    if (64 + 16 * i.val) / 128 = k then buildMark t i (u8 bs ((64 + 16 * i.val) % 128 + 15)) else t) s

/-- Block `k` of the journal (R58, R178). -/
def buildJournal (s : State) (k : Nat) (res : ReadResult) : State :=
  match res with
  | .ok bs => buildMarks (if k = 0 then buildHeader s bs else s) k bs
  | .fault => if k = 0 then setTail s 0 .one else s

/-- Block `k` of the layouts: four make a record (R95). -/
def buildLayouts (s : State) (k : Nat) (res : ReadResult) : State :=
  let parts := s.start.layoutParts ++ [res]
  if k % 4 = 3 then
    buildLayoutAt { s with start := { s.start with layoutParts := [] } } (Fin.ofNat 24 (k / 4))
      (parts.foldr (fun r acc => r.data?.bind fun d => acc.map fun ds => d ++ ds) (some []))
  else { s with start := { s.start with layoutParts := parts } }

/-- Block `k` of the notices; after the last, the notices' states are entered (R123). -/
def buildNotices (s : State) (k : Nat) (res : ReadResult) : State :=
  let s1 := buildBlock s 64 2 res fun t j r => buildNoticeAt t (Fin.ofNat 32 (2 * k + j)) r
  if k = 15 then finishNotices s1 else s1

/-- One build read is taken (R178). -/
def buildRead (s : State) (b : BuildItem) (res : ReadResult) : State :=
  match b with
  | .showings k => buildBlock s 64 2 res fun t j r => buildShowingAt t (Fin.ofNat 256 (2 * k + j)) r
  | .journal k => buildJournal s k res
  | .titles k => buildBlock s 32 4 res fun t j r => buildTitleAt t (Fin.ofNat 64 (4 * k + j)) r
  | .layouts k => buildLayouts s k res
  | .notices k => buildNotices s k res
  | .catalog k => buildBlock s 16 8 res fun t j r => buildCatalogAt t (Fin.ofNat 48 (8 * k + j)) r
  | .rotation k => buildBlock s 64 2 res fun t j r => buildRotationAt t (Fin.ofNat 4 (2 * k + j)) r

/-- The next build read in order is taken, if it has been answered (log 13). -/
def buildNext (s : State) : Option State :=
  match resultOf s.start.buildGot s.start.buildDone, buildItem s.start.resume s.start.buildDone with
  | some res, some b =>
    some (buildRead { s with start := { s.start with
        buildDone := s.start.buildDone + 1
        buildGot := s.start.buildGot.filter fun e => e.1 != s.start.buildDone } } b res)
  | _, _ => none

/-- The answered build reads are taken in order, as far as they go. -/
def buildDrain : Nat → State → State
  | 0, s => s
  | n + 1, s =>
    match buildNext s with
    | some t => buildDrain n t
    | none => s

/-- A build read has ended (R178); after the last one the part enters RUNNING. -/
def buildReadDone (s : State) (k : Nat) (res : ReadResult) : State :=
  let s1 := { s with start := { s.start with buildGot := s.start.buildGot ++ [(k, res)] } }
  let s2 := buildDrain s1.start.buildGot.length s1
  if s2.start.buildDone = buildTotal s2.start.resume then enterRunning (markAll s2) else s2

end Sys2Proof.Machine
end

