-- ==== Sys2Proof/Machine/OwnOps.lean ====
section
/-! DEFINITION. What each requester does when one of its own requests is answered or times out (R13, R15, R43, R101,
R104, R120, R159, R160, R167, R169, R171, R177, R178). -/

namespace Sys2Proof.Machine

/-! ### Record fetches (R13) -/

/-- The first faulting burst of a fetch, in the order in which the responses were taken. -/
def firstFault (l : List (Nat × ReadResult)) : Option Nat := (l.find? fun e => e.2 == .fault).map (·.1)

/-- A record's fetch state is set. -/
def setFetchState (s : State) (r : RecordId) (f : FetchState) : State :=
  { s with commit := { s.commit with fetch := s.commit.fetch.set r f } }

/-- A record joins the tail of the commit queue again (R13). -/
def requeue (s : State) (r : RecordId) : State :=
  let s1 := setFetchState s r .queued
  { s1 with commit := { s1.commit with queue := s1.commit.queue ++ [r] } }

/-- A fetch whose bursts were all OK (R13). -/
def fetchOk (s : State) (r : RecordId) (bs : List Byte) : State :=
  if s.commit.fetch.get r = .stale then requeue s r else handRecord (setFetchState s r .idle) r bs

/-- A fetch of which burst `k` was the first to fault (R13, R171). -/
def fetchFault (s : State) (r : RecordId) (k : Nat) : State :=
  let s1 := memoryFault s .commit (fetchBurst s r k).addr false
  if s1.part = .transparent then s1
  else if s.commit.fetch.get r = .stale then requeue s1 r else setFetchState s1 r .idle

/-- A fetch ends (R13). -/
def endFetch (s : State) (f : Fetch) : State :=
  let s1 := { s with commit := { s.commit with fetches := s.commit.fetches.filter fun x => x.record != f.record } }
  match firstFault f.taken with
  | some k => fetchFault s1 f.record k
  | none => fetchOk s1 f.record ((joinReads f.taken (fetchShape f.record).1).getD [])

/-- One burst of a record's fetch has been answered (R13, log 10). -/
def commitFetchDone (s : State) (r : RecordId) (k : Nat) (res : ReadResult) : State :=
  match s.commit.fetches.find? fun f => f.record == r with
  | none => s
  | some f =>
    let f1 := { f with taken := f.taken ++ [(k, res)] }
    if f1.taken.length < (fetchShape r).1 then
      { s with commit := { s.commit with fetches := modFetch s.commit.fetches r fun _ => f1 } }
    else endFetch s f1

/-! ### The tail fetch (R43) -/

/-- The journal fetch state is set. -/
def setJournalFetch (s : State) (f : JournalFetch) : State := { s with journal := { s.journal with fetch := f } }

/-- A tail slot whose fetch faulted is skipped (R43, log 15). -/
def skipFaulted (s : State) : State :=
  advanceTail (raise (drawFree (setJournalFetch s .none) 1) .journalBad (le8 s.journal.tail.val ++ [freeByteOf s])
    (le8 5))

/-- The tail fetch has been answered (R43). -/
def journalFetchDone (s : State) (addr : BitVec 32) (res : ReadResult) : State :=
  match res with
  | .ok bs =>
    if s.journal.fetch = .stale then setJournalFetch s .none
    else advanceTail (applyJournal (setJournalFetch s .none) (journalRec bs))
  | .fault =>
    let s1 := memoryFault s .commit addr false
    if s1.part = .transparent then s1 else skipFaulted s1

/-! ### Write-backs (R15) -/

/-- A write-back has been answered (R15). -/
def writeBackDone (s : State) (addr : BitVec 32) (res : ReadResult) : State :=
  match res with
  | .ok _ => s
  | .fault => memoryFault s .commit addr true

/-! ### Paints (R101 to R104, R107) -/

/-- A paint that takes its glyph (R101, R107). -/
def Paint.withGlyph (p : Paint) (bs : List Byte) : Paint :=
  { p with glyph := bs, stage := if p.interrupted then .ended else .rows }

/-- A paint whose glyph read faulted (R104). -/
def Paint.glyphFault (p : Paint) : Paint := { p with fault := some .glyph, stage := .ended }

/-- The first row whose write faulted, kept as the lowest row number (R104, log 19). -/
def lowerFault (f : Option PaintFault) (r : Nat) : Option PaintFault :=
  match f with
  | some .glyph => some .glyph
  | some (.row q) => some (.row (min q r))
  | none => some (.row r)

/-- A paint with one more row write answered; it ends after the last (R101, R107). -/
def Paint.rowAnswered (p : Paint) : Paint :=
  let p1 := { p with rowsDone := p.rowsDone + 1 }
  if p1.rowsDone = p1.rowsIssued ∧ (p1.rowsIssued = 32 ∨ p1.interrupted = true) then { p1 with stage := .ended } else p1

/-- MEMORY_FAULT is raised for a paint's first faulting response only (R104, R171). -/
def paintMemoryFault (s : State) (k : Fin 2) (addr : BitVec 32) (isWrite : Bool) : State :=
  match paintIn s k with
  | some p => if p.fault.isNone then memoryFault s .painter addr isWrite else s
  | none => s

/-- A glyph read of a paint has been answered (R101, R104). -/
def glyphReadDone (s : State) (k : Fin 2) (addr : BitVec 32) (res : ReadResult) : State :=
  match res with
  | .ok bs => modPaint s k fun p => p.withGlyph bs
  | .fault =>
    let s1 := paintMemoryFault s k addr false
    if s1.part = .transparent then s1 else modPaint s1 k Paint.glyphFault

/-- A row write of a paint has been answered (R101, R104). -/
def rowWriteDone (s : State) (k : Fin 2) (r : Nat) (addr : BitVec 32) (res : ReadResult) : State :=
  match res with
  | .ok _ => modPaint s k Paint.rowAnswered
  | .fault =>
    let s1 := paintMemoryFault s k addr true
    if s1.part = .transparent then s1
    else modPaint s1 k fun p => ({ p with fault := lowerFault p.fault r }).rowAnswered

/-! ### Banner glyph fetches (R120) -/

/-- A banner glyph fetch has been answered (R120, R171). -/
def glyphFetchDone (s : State) (e : CacheIx) (addr : BitVec 32) (res : ReadResult) : State :=
  match res with
  | .ok bs => fillEntry s e (.ok bs)
  | .fault =>
    let s1 := memoryFault s .notice addr false
    if s1.part = .transparent then s1 else fillEntry s1 e .fault

/-! ### Report writes (R167, R169) -/

/-- A record write has been answered (R167, R169). -/
def reportRecordDone (s : State) (res : ReadResult) : State :=
  match res with
  | .ok _ =>
    { s with reports := { s.reports with queue := s.reports.queue.tail, p := s.reports.p + 1, headerQueued := true } }
  | .fault => reportWriteFault s true

/-- A header write has been answered (R169). -/
def reportHeaderDone (s : State) (res : ReadResult) : State :=
  match res with
  | .ok _ => s
  | .fault => reportWriteFault s false

/-! ### Every own request -/

/-- Whether a request's owner awaits it in the part state: the loads of Start and Containment while they go on, and
every other request in RUNNING and QUIET (R164, R171, R174, R181). -/
def awaits (s : State) : OwnPurpose → Bool
  | .setupRead _ => (s.part == .loading || s.part == .restarting) && s.start.stage == .setupReads
  | .buildRead _ => s.rebuilding && s.start.stage == .build
  | _ => s.active

/-- What an answer, or the expiry of the timer, of a request at `addr` does at its owner. -/
def ownEffect (s : State) (addr : BitVec 32) (p : OwnPurpose) (res : ReadResult) : State :=
  match p with
  | .setupRead k => setupReadDone s k res
  | .buildRead k => buildReadDone s k res
  | .commitFetch r k => commitFetchDone s r k res
  | .journalFetch => journalFetchDone s addr res
  | .writeBack _ => writeBackDone s addr res
  | .glyphRead k => glyphReadDone s k addr res
  | .rowWrite k r => rowWriteDone s k r addr res
  | .glyphFetch e => glyphFetchDone s e addr res
  | .reportRecord => reportRecordDone s res
  | .reportHeader => reportHeaderDone s res

/-- A live own request at `addr` has been answered, or its timer has expired (R159, R160). -/
def ownDone (s : State) (addr : BitVec 32) (p : OwnPurpose) (res : ReadResult) : State :=
  if awaits s p then ownEffect s addr p res else s

/-- Whether a response carries the data beats of its request (section 10.1, log 5). -/
def answerWf (u : TagUse) (st : Status) (data : List Byte) : Bool :=
  if u.isWrite then data.isEmpty else st == .fault || data.length == 8 * u.beats

/-- The outcome a response stands for. -/
def resultFor (st : Status) (data : List Byte) : ReadResult :=
  match st with
  | .ok => .ok data
  | .fault => .fault

/-- An own request's purpose and where it stands, if a tag is reserved for one that `mine` picks. -/
def ownUse (s : State) (t : MemTag) (mine : OwnPurpose → Bool) : Option (TagUse × OwnPurpose × OwnStatus) :=
  match s.traffic.tags.get t with
  | some u =>
    match u.holder with
    | .own p _ st => if mine p then some (u, p, st) else none
    | _ => none
  | none => none

/-- Memory's response to an own request is taken (R160): the tag is freed first; a live request's requester gets the
response; the response to one that timed out or is awaited only for its tag is dropped. -/
def ownResponse (s : State) (t : MemTag) (u : TagUse) (p : OwnPurpose) (st : OwnStatus) (res : ReadResult) : State :=
  if st = .live then ownDone (freeTag s t) u.addr p res else freeTag s t

/-- What a command's meaning answers. -/
abbrev Result := Host.Outcome State Fault Refusal

/-- An event: it acts when RESET_N is high and its condition holds, and a rule ends with the requesters' choices; a
command whose event does not stand has no effect (log 2). -/
def event (s : State) (ok : Bool) (t : State) : Result := .next (if s.resetN && ok then settle t else s)

/-- The step that takes memory's response to a kind of own request. -/
def answerOwn (s : State) (t : MemTag) (status : Status) (data : List Byte) (mine : OwnPurpose → Bool) : Result :=
  match ownUse s t mine with
  | some (u, p, st) =>
    if s.resetN then
      if answerWf u status data then .next (settle (ownResponse s t u p st (resultFor status data)))
      else .fault .brokenResponse
    else .next s
  | none => .next s

end Sys2Proof.Machine
end

