-- ==== Sys2Proof/Machine/CommitCommands.lean ====
section
/-! DEFINITION. The meanings of the commands of the Commit Unit: COMMIT_FETCH_ISSUE, COMMIT_FETCH_COMPLETE,
JOURNAL_FETCH_ISSUE, JOURNAL_FETCH_COMPLETE, WRITE_BACK_ISSUE and WRITE_BACK_COMPLETE. -/

namespace Sys2Proof.Machine

/-- Whether a request is a burst of a record's fetch. -/
def OwnPurpose.isCommitFetch : OwnPurpose → Bool
  | .commitFetch _ _ => true
  | _ => false

/-- COMMIT_FETCH_ISSUE (R12, R163): the grant of a burst of a record's fetch. -/
def execCommitFetchIssue (s : State) : Result := .next (issueOwn s OwnPurpose.isCommitFetch)

/-- COMMIT_FETCH_COMPLETE (R13, R160). -/
def execCommitFetchComplete (t : MemTag) (st : Status) (data : List Byte) (s : State) : Result :=
  answerOwn s t st data OwnPurpose.isCommitFetch

/-- Whether a request is the tail fetch. -/
def OwnPurpose.isJournalFetch : OwnPurpose → Bool
  | .journalFetch => true
  | _ => false

/-- JOURNAL_FETCH_ISSUE (R42, R163). -/
def execJournalFetchIssue (s : State) : Result := .next (issueOwn s OwnPurpose.isJournalFetch)

/-- JOURNAL_FETCH_COMPLETE (R43, R160). -/
def execJournalFetchComplete (t : MemTag) (st : Status) (data : List Byte) (s : State) : Result :=
  answerOwn s t st data OwnPurpose.isJournalFetch

/-- WRITE_BACK_ISSUE (R15, R163). -/
def execWriteBackIssue (s : State) : Result := .next (issueOwn s OwnPurpose.isWriteBack)

/-- WRITE_BACK_COMPLETE (R15, R160). -/
def execWriteBackComplete (t : MemTag) (st : Status) (s : State) : Result :=
  answerOwn s t st [] OwnPurpose.isWriteBack

end Sys2Proof.Machine
end

