-- ==== Sys2Proof/WellFormed.lean ====
section
/-! DEFINITION. What a command must look like to be one of the link's transactions (00 section 6.3, section 10.1,
R158). The checks read the command alone; whether an event's condition holds is the machine's matter. -/

namespace Sys2Proof

/-- A burst of the content link (00 section 6.3): 1–16 beats of 8 bytes, starting on an 8-byte boundary and lying
wholly inside one 128-byte block; a write has one lane a byte and a read has none (section 10.1). -/
def Burst.wf (b : Burst) : Bool :=
  1 ≤ b.beats && b.beats ≤ 16
    && b.addr.toNat % 8 == 0
    && b.addr.toNat % 128 + 8 * b.beats ≤ 128
    && b.lanes.length == (if b.isWrite then 8 * b.beats else 0)

/-- The data beats of a response: none, or 1–16 beats of 8 bytes (section 10.1). -/
def dataWf (data : List Byte) : Bool :=
  data.length % 8 == 0 && data.length ≤ 128

/-- A memory tag of the part's own requests (R158). -/
def ownTagWf (t : MemTag) : Bool := 64 ≤ t.val

/-- A memory tag of a forwarded controller request (R158). -/
def ctlTagWf (t : MemTag) : Bool := t.val < 64

/-- The well-formed commands. -/
def Instr.wf : Instr → Bool
  | .resetNAssert => true
  | .resetNRelease _ => true
  | .lrstNAssert => true
  | .lrstNRelease => true
  | .controllerRequest _ b => b.wf
  | .forwardGrant => true
  | .memoryResponse t _ d => ctlTagWf t && dataWf d
  | .hostTimeout _ => true
  | .ownRequestTimeout t => ownTagWf t
  | .centiTick => true
  | .lobbySecond => true
  | .phaseFire => true
  | .holdExpire => true
  | .noticeExpire => true
  | .gapTimeout => true
  | .passIdleTimeout _ => true
  | .commitFetchIssue => true
  | .commitFetchComplete t _ d => ownTagWf t && dataWf d
  | .journalFetchIssue => true
  | .journalFetchComplete t _ d => ownTagWf t && dataWf d
  | .writeBackIssue => true
  | .writeBackComplete t _ => ownTagWf t
  | .cellTake => true
  | .glyphReadIssue => true
  | .glyphReadResponse t _ d => ownTagWf t && dataWf d
  | .rowWriteIssue => true
  | .rowWriteResponse t _ => ownTagWf t
  | .paintComplete => true
  | .glyphFetchIssue => true
  | .glyphFetchComplete t _ d => ownTagWf t && dataWf d
  | .reportRecordWrite => true
  | .reportHeaderWrite => true
  | .reportWriteComplete t _ => ownTagWf t
  | .setupRead => true
  | .setupReadComplete t _ d => ownTagWf t && dataWf d
  | .buildRead => true
  | .buildReadComplete t _ d => ownTagWf t && dataWf d
  | .restartReload => true

end Sys2Proof
end

