-- ==== Sys2Proof/Machine/LinkCommands.lean ====
section
/-! DEFINITION. The meanings of the commands of the pins and of the content link (Chapter 10, R176): RESET_N_ASSERT,
RESET_N_RELEASE, LRST_N_ASSERT, LRST_N_RELEASE, CONTROLLER_REQUEST, FORWARD_GRANT, MEMORY_RESPONSE, HOST_TIMEOUT and
OWN_REQUEST_TIMEOUT. -/

namespace Sys2Proof.Machine

/-! ### Pins -/

/-- The part held by RESET_N: every block at its power-on values. The level of LRST_N, the waiting commands and the
model's own records are no state of a block. -/
def held (s : State) : State :=
  { State.reset with lrstN := s.lrstN, memOut := s.memOut, ctlOut := s.ctlOut, free := s.free, pending := s.pending }

/-- RESET_N_ASSERT (R176). -/
def execResetNAssert (s : State) : Result := .next (held s)

/-- LOADING begins (R176). -/
def beginLoad (s : State) (sbase : BitVec 3) : State :=
  { s with resetN := true, part := .loading, start := { s.start with sbase := some sbase, stage := .setupReads } }

/-- RESET_N_RELEASE (R176). -/
def execResetNRelease (sbase : BitVec 3) (s : State) : Result :=
  .next (if s.resetN then s else settle (beginLoad s sbase))

/-- A forwarded request's tag after a link reset: it belongs to the commit record alone (R160, R161). -/
def orphanTag (inflight : Vector (Option InFlight) 64) (t : MemTag) (u : Option TagUse) : Option TagUse :=
  u.map fun v =>
    match v.holder with
    | .inFlight =>
      { v with holder := .afterReset (((inflight.get (ctlTagOf t)).map fun e => e.commits).getD []) }
    | _ => v

/-- A link reset (R161). -/
def linkReset (s : State) : State :=
  { s with traffic := { s.traffic with
      queue := []
      inflight := Vector.replicate 64 none
      tags := tab fun t => orphanTag s.traffic.inflight t (s.traffic.tags.get t) } }

/-- LRST_N_ASSERT (R161). -/
def execLrstNAssert (s : State) : Result :=
  .next (if s.lrstN then settle { linkReset s with lrstN := false } else s)

/-- LRST_N_RELEASE (R161). -/
def execLrstNRelease (s : State) : Result := .next { s with lrstN := true }

/-! ### CONTROLLER_REQUEST (R155, R156) -/

/-- Whether the controller port takes a request (R155). -/
def portTakes (s : State) : Bool :=
  s.resetN && s.lrstN && s.part != .loading && s.traffic.queue.length < 16

/-- A request whose tag is in use (R156). -/
def reuseTag (s : State) (tag : CtlTag) (b : Burst) : State :=
  raise (respondFault s tag b) .tagReused (le8 tag.val) (le32 b.addr.toNat ++ le8 (kindCode b.isWrite))

/-- Whether a request is a read that is handed to the Scan Tracker: its panel, row and byte offset (R5, R126, R138). -/
def scanTarget (s : State) (cls : ReqClass) (b : Burst) : Option (PanelIx × Nat × Nat) :=
  match cls with
  | .panelFrame p row off =>
    if s.active && !b.isWrite && off < (s.setup.panels.get p).width * 4 then some (p, row, off) else none
  | _ => none

/-- The in-flight entry of an accepted request (R156). -/
def newEntry (s : State) (b : Burst) (cls : ReqClass) (plan : Plan) : InFlight :=
  { burst := b, cls := cls, plan := plan, commits := [], stage := .queued, started := s.traffic.cycles }

/-- An accepted request gets its entry and joins the forward queue (R155). -/
def enlist (s : State) (tag : CtlTag) (e : InFlight) : State :=
  let s1 := setEntry s tag (some e)
  { s1 with traffic := { s1.traffic with queue := s1.traffic.queue ++ [tag] } }

/-- A request is accepted: its class, the hand-off to the Scan Tracker and the plan (R155, R126, R130). -/
def acceptRequest (s : State) (tag : CtlTag) (b : Burst) : State :=
  let cls := classify s b.addr.toNat
  match scanTarget s cls b with
  | some (p, row, off) =>
    let s1 := scanRead s p row
    enlist s1 tag (newEntry s1 b cls (planRead s1 p row off b.beats))
  | none => enlist s tag (newEntry s b cls .none)

/-- CONTROLLER_REQUEST (R155, R156). A request that the port does not take has not reached the part. -/
def execControllerRequest (tag : CtlTag) (b : Burst) (s : State) : Result :=
  if portTakes s then
    if b.wf then
      .next (settle (if (s.traffic.inflight.get tag).isSome then reuseTag s tag b else acceptRequest s tag b))
    else .fault .brokenBurst
  else .next s

/-! ### FORWARD_GRANT (R157) -/

/-- Whether hand-offs of controller writes are made (R105, R107, R152). -/
def handsOff (part : PartState) : Bool := part != .loading && part != .transparent

/-- The hand-off of a controller write at forwarding (R5, R105, R142). -/
def handOff (s : State) (e : InFlight) : State :=
  if e.burst.isWrite && handsOff s.part then
    match e.cls with
    | .panelFrame p row off => panelWrite s p row (writtenColumns e.burst off (s.setup.panels.get p).width)
    | .slotPixels i k _ off => if off < (s.setup.streams.get i).width * 4 then slotPixelWrite s i k else s
    | _ => s
  else s

/-- The burst a request is forwarded as (R157 steps 1 and 2). -/
def forwardedBurst (s : State) (e : InFlight) : Burst :=
  { e.burst with addr := forwardedAddr e, lanes := forwardedLanes s e.cls e.burst }

/-- The head leaves the forward queue with its commit record, as FORWARDED (R157). -/
def markForwarded (s : State) (t : CtlTag) (e : InFlight) : State :=
  let s1 := setEntry s t (some { e with commits := recordedItems s e.cls e.burst, stage := .forwarded })
  { s1 with traffic := { s1.traffic with queue := s1.traffic.queue.tail, grants := grantsAfter s } }

/-- The grant of the head (R157). -/
def forwardHead (s : State) (t : CtlTag) (e : InFlight) : State :=
  issue (handOff (markForwarded s t e) e) (memTagOf t) (forwardedBurst s e) .inFlight

/-- FORWARD_GRANT (R157, R163). -/
def execForwardGrant (s : State) : Result :=
  match arbiterPick s, headEntry s with
  | some .controller, some (t, e) => event s true (forwardHead s t e)
  | _, _ => .next s

/-! ### MEMORY_RESPONSE (R160) -/

/-- The commits of a write that was answered (R6). -/
def commitsTaken (s : State) (st : Status) (l : List CommitItem) : State :=
  match st with
  | .ok => takeItems s l
  | .fault => s

/-- The response to a request in use is returned, its commits acted on, and its entry freed (R160, R6). -/
def returnResponse (s : State) (tag : CtlTag) (e : InFlight) (st : Status) (data : List Byte) : State :=
  setEntry (commitsTaken (respond s tag st (returnedData s.part e.plan st data)) st e.commits) tag none

/-- Memory's response to a controller request, by what the tag belonged to (R160). -/
def takeResponse (s : State) (t : MemTag) (h : Holder) (st : Status) (data : List Byte) : State :=
  match h with
  | .inFlight =>
    match s.traffic.inflight.get (ctlTagOf t) with
    | some e => returnResponse s (ctlTagOf t) e st data
    | none => s
  | .afterReset commits => commitsTaken s st commits
  | .timedOut => s
  | .own _ _ _ => s

/-- The tag use of a controller request, if the tag is reserved for one. -/
def ctlUse (s : State) (t : MemTag) : Option TagUse :=
  match s.traffic.tags.get t with
  | some u =>
    match u.holder with
    | .own _ _ _ => none
    | _ => some u
  | none => none

/-- MEMORY_RESPONSE (R160). -/
def execMemoryResponse (t : MemTag) (st : Status) (data : List Byte) (s : State) : Result :=
  match ctlUse s t with
  | some u =>
    if s.resetN then
      if answerWf u st data then .next (settle (takeResponse (freeTag s t) t u.holder st data))
      else .fault .brokenResponse
    else .next s
  | none => .next s

/-! ### Timeouts (R159) -/

/-- What remains of a controller request whose timer has expired (R159). -/
def expireEntry (s : State) (tag : CtlTag) (e : InFlight) : State :=
  let s1 := setEntry s tag none
  match e.stage with
  | .queued => { s1 with traffic := { s1.traffic with queue := s1.traffic.queue.filter fun t => t != tag } }
  | .forwarded => setHolder s1 (memTagOf tag) .timedOut

/-- A controller request's timer expires (R159). -/
def hostTimeout (s : State) (tag : CtlTag) (e : InFlight) : State :=
  expireEntry (raise (respondFault s tag e.burst) .hostTimeout (le8 tag.val)
    (le32 e.burst.addr.toNat ++ le8 (kindCode e.burst.isWrite) ++ le8 (if e.stage = .forwarded then 1 else 0))) tag e

/-- HOST_TIMEOUT (R159). -/
def execHostTimeout (tag : CtlTag) (s : State) : Result :=
  match s.traffic.inflight.get tag with
  | some e => event s (s.timerExpired e.started) (hostTimeout s tag e)
  | none => .next s

/-- An own request whose timer is running: its tag use, purpose, start and standing. -/
def timedUse (s : State) (t : MemTag) : Option (TagUse × OwnPurpose × Nat × OwnStatus) :=
  match s.traffic.tags.get t with
  | some u =>
    match u.holder with
    | .own p started st => if st = .timedOut then none else some (u, p, started, st)
    | _ => none
  | none => none

/-- An own request's timer expires (R159): its tag stays reserved, and a live request's requester counts it as
faulted. -/
def ownTimeout (s : State) (t : MemTag) (u : TagUse) (p : OwnPurpose) (started : Nat) (st : OwnStatus) : State :=
  let s1 := setHolder s t (.own p started .timedOut)
  if st = .live then ownDone s1 u.addr p .fault else s1

/-- OWN_REQUEST_TIMEOUT (R159). -/
def execOwnRequestTimeout (t : MemTag) (s : State) : Result :=
  match timedUse s t with
  | some (u, p, started, st) => event s (s.timerExpired started) (ownTimeout s t u p started st)
  | none => .next s

end Sys2Proof.Machine
end

