-- ==== Sys2Proof/Machine/NoticeCommands.lean ====
section
/-! DEFINITION. The meanings of the commands of the Notice Unit: GLYPH_FETCH_ISSUE and GLYPH_FETCH_COMPLETE. -/

namespace Sys2Proof.Machine

/-- GLYPH_FETCH_ISSUE (R119, R163). -/
def execGlyphFetchIssue (s : State) : Result := .next (issueOwn s OwnPurpose.isGlyphFetch)

/-- GLYPH_FETCH_COMPLETE (R120, R160). -/
def execGlyphFetchComplete (t : MemTag) (st : Status) (data : List Byte) (s : State) : Result :=
  answerOwn s t st data OwnPurpose.isGlyphFetch

end Sys2Proof.Machine
end

