-- ==== Sys2Proof/Machine/PaintCommands.lean ====
section
/-! DEFINITION. The meanings of the commands of the Cell Painter: CELL_TAKE, GLYPH_READ_ISSUE, GLYPH_READ_RESPONSE,
ROW_WRITE_ISSUE, ROW_WRITE_RESPONSE and PAINT_COMPLETE. -/

namespace Sys2Proof.Machine

/-! ### CELL_TAKE (R100) -/

/-- The lowest-numbered FREE paint slot (log 24). -/
def freeSlot (s : State) : Fin 2 := if s.painter.slots.any fun p => p.slot == 0 then 1 else 0

/-- Whether a take may be made (R100). -/
def canTake (s : State) : Bool := s.part == .running && s.painter.slots.length < 2

/-- The head leaves the render queue (R98, R100). -/
def leaveQueue (s : State) (r : CellRef) : State :=
  setMarks { s with painter := { s.painter with queue := s.painter.queue.tail } } r
    { cellMarks s r with queued := false }

/-- The values a slot records at a take (R100). -/
def paintOf (s : State) (r : CellRef) : Paint :=
  let t := cellAt s.roster.targets r
  let pair := (s.roster.layouts.get r.panel).palette.get t.pair
  let ln := s.line r.panel r.line
  let g := s.setup.panels.get r.panel
  { slot := freeSlot s, ref := r, target := t, fg := pair.fg, bg := pair.bg, x := ln.x, y := ln.y, base := g.base,
    stride := g.stride, stage := .glyph, glyphIssued := false, glyph := [], rowsIssued := 0, rowsDone := 0,
    fault := none, void := false, interrupted := false }

/-- A stale cell enters a paint slot (R100). -/
def startPaint (s : State) (r : CellRef) : State :=
  let s1 := setMarks s r { cellMarks s r with painting := true }
  { s1 with painter := { s1.painter with slots := s1.painter.slots ++ [paintOf s r] } }

/-- A take: the cell is dropped when its target is its painted content, and painted otherwise (R100); the walk follows
if the count is low (R98). -/
def takeCell (s : State) (r : CellRef) : State :=
  let s1 := leaveQueue s r
  walkIfLow (if stale s1 r then startPaint s1 r else s1)

/-- CELL_TAKE (R100). -/
def execCellTake (s : State) : Result :=
  match s.painter.queue with
  | r :: _ => event s (canTake s) (takeCell s r)
  | [] => .next s

/-! ### Reads and writes of a paint (R101) -/

/-- Whether a request is a paint's glyph read. -/
def OwnPurpose.isGlyphRead : OwnPurpose → Bool
  | .glyphRead _ => true
  | _ => false

/-- GLYPH_READ_ISSUE (R101, R163). -/
def execGlyphReadIssue (s : State) : Result := .next (issueOwn s OwnPurpose.isGlyphRead)

/-- GLYPH_READ_RESPONSE (R101, R104, R160). -/
def execGlyphReadResponse (t : MemTag) (st : Status) (data : List Byte) (s : State) : Result :=
  answerOwn s t st data OwnPurpose.isGlyphRead

/-- Whether a request is a paint's row write. -/
def OwnPurpose.isRowWrite : OwnPurpose → Bool
  | .rowWrite _ _ => true
  | _ => false

/-- ROW_WRITE_ISSUE (R102, R163). -/
def execRowWriteIssue (s : State) : Result := .next (issueOwn s OwnPurpose.isRowWrite)

/-- ROW_WRITE_RESPONSE (R101, R104, R160). -/
def execRowWriteResponse (t : MemTag) (st : Status) (s : State) : Result := answerOwn s t st [] OwnPurpose.isRowWrite

/-! ### PAINT_COMPLETE (R103, R104, R106, R107) -/

/-- The painted content a paint of OK responses leaves (R103). -/
def paintedBy (s : State) (p : Paint) : Option Target := if (cellMarks s p.ref).spoiled then none else some p.target

/-- The failing stage and row of a PAINT_FAULT (R104, R188). -/
def PaintFault.bytes : PaintFault → List Byte
  | .glyph => [0, 0]
  | .row r => 1 :: le8 r

/-- The subject of a PAINT_FAULT: panel, line, cell (R104). -/
def CellRef.bytes (r : CellRef) : List Byte := le8 r.panel.val ++ le8 r.line.val ++ le8 r.cell.val

/-- A faulted paint completes (R104). -/
def faultPaint (s : State) (p : Paint) (f : PaintFault) : State :=
  let s1 := clearPainting s p.ref none
  raise (setMarks s1 p.ref { cellMarks s1 p.ref with faulted := true }) .paintFault p.ref.bytes
    (p.target.code :: f.bytes)

/-- A paint completes (R103, R104, R106, R107), less the freeing of its slot. -/
def endPaint (s : State) (p : Paint) : State :=
  if p.void then giveUpPaint s p.ref
  else
    match p.fault with
    | some f => faultPaint s p f
    | none =>
      if p.interrupted then giveUpPaint s p.ref else offer (clearPainting s p.ref (paintedBy s p)) p.ref false

/-- The first slot becomes FREE, and the second becomes the first (R102). -/
def freePaint (s : State) : State := { s with painter := { s.painter with slots := s.painter.slots.tail } }

/-- PAINT_COMPLETE (R103), of the first slot in its turn (R102). -/
def execPaintComplete (s : State) : Result :=
  match s.painter.slots with
  | p :: _ => event s (s.active && p.stage == .ended) (endPaint (freePaint s) p)
  | [] => .next s

end Sys2Proof.Machine
end

