-- ==== Sys2Proof/Machine/ReportCommands.lean ====
section
/-! DEFINITION. The meanings of the commands of the Report Unit: REPORT_RECORD_WRITE, REPORT_HEADER_WRITE and
REPORT_WRITE_COMPLETE. -/

namespace Sys2Proof.Machine

/-- Whether a request is a report record write. -/
def OwnPurpose.isReportRecord : OwnPurpose → Bool
  | .reportRecord => true
  | _ => false

/-- Whether a request is a report header write. -/
def OwnPurpose.isReportHeader : OwnPurpose → Bool
  | .reportHeader => true
  | _ => false

/-- REPORT_RECORD_WRITE (R167, R163). -/
def execReportRecordWrite (s : State) : Result := .next (issueOwn s OwnPurpose.isReportRecord)

/-- REPORT_HEADER_WRITE (R167, R163). -/
def execReportHeaderWrite (s : State) : Result := .next (issueOwn s OwnPurpose.isReportHeader)

/-- REPORT_WRITE_COMPLETE (R167, R169, R160), of a record write or of a header write. -/
def execReportWriteComplete (t : MemTag) (st : Status) (s : State) : Result := answerOwn s t st [] OwnPurpose.isReport

end Sys2Proof.Machine
end

