-- ==== Sys2Proof/Machine/StartCommands.lean ====
section
/-! DEFINITION. The meanings of the commands of Start and Containment: SETUP_READ, SETUP_READ_COMPLETE, BUILD_READ,
BUILD_READ_COMPLETE and RESTART_RELOAD. -/

namespace Sys2Proof.Machine

/-- Whether a request is a read of the Setup Block. -/
def OwnPurpose.isSetupRead : OwnPurpose → Bool
  | .setupRead _ => true
  | _ => false

/-- Whether a request is a read of the build. -/
def OwnPurpose.isBuildRead : OwnPurpose → Bool
  | .buildRead _ => true
  | _ => false

/-- SETUP_READ (R176, R163). -/
def execSetupRead (s : State) : Result := .next (issueOwn s OwnPurpose.isSetupRead)

/-- SETUP_READ_COMPLETE (R177, R160). -/
def execSetupReadComplete (t : MemTag) (st : Status) (data : List Byte) (s : State) : Result :=
  answerOwn s t st data OwnPurpose.isSetupRead

/-- BUILD_READ (R178, R163). -/
def execBuildRead (s : State) : Result := .next (issueOwn s OwnPurpose.isBuildRead)

/-- BUILD_READ_COMPLETE (R178, R160). -/
def execBuildReadComplete (t : MemTag) (st : Status) (data : List Byte) (s : State) : Result :=
  answerOwn s t st data OwnPurpose.isBuildRead

/-- Stage 2 of a warm restart begins: the paints have been awaited and their slots become FREE (R109), and the Setup
Block is read (R181). -/
def beginReload (s : State) : State :=
  { freeSlots s with start := { s.start with stage := .setupReads, setupIssued := 0, setupGot := [] } }

/-- What RESTART_RELOAD does at the stage a restart stands in (R181, log 12): the slots become FREE and the reads of
stage 2 begin; after the acceptance the new values are taken, the owners clear their state, and the rebuild begins. -/
def reload (s : State) : State :=
  match s.start.stage with
  | .wait => beginReload s
  | .accepted bs => beginBuild (clearOwners (takeValues s bs)) true
  | _ => s

/-- Whether a warm restart stands at a stage at which RESTART_RELOAD acts. -/
def Stage.reloads : Stage → Bool
  | .wait => true
  | .accepted _ => true
  | _ => false

/-- Whether RESTART_RELOAD may act: no own request is outstanding (R181). -/
def canReload (s : State) : Bool := s.part == .restarting && s.start.stage.reloads && !ownOutstanding s

/-- RESTART_RELOAD (R181). -/
def execRestartReload (s : State) : Result := event s (canReload s) (reload s)

end Sys2Proof.Machine
end

