-- ==== Sys2Proof/Machine/TimeCommands.lean ====
section
/-! DEFINITION. The meanings of the commands of lobby time, the Due List and the centi-tick timers: CENTI_TICK,
LOBBY_SECOND, PHASE_FIRE, HOLD_EXPIRE, NOTICE_EXPIRE, GAP_TIMEOUT and PASS_IDLE_TIMEOUT. -/

namespace Sys2Proof.Machine

/-- CENTI_TICK (R61). The clock is stopped until a Setup Block is accepted (section 4.1). -/
def execCentiTick (s : State) : Result := event s s.clock.running { s with clock := s.clock.tick }

/-- LOBBY_SECOND (R62, R63). -/
def execLobbySecond (s : State) : Result := event s (0 < s.clock.secondsDue) (takeSecond s)

/-- The firing batch less its head, which is being handed on (R68). -/
def popBatch (s : State) : State := { s with due := { s.due with batch := s.due.batch.tail } }

/-- PHASE_FIRE (R23, R68). -/
def execPhaseFire (s : State) : Result :=
  match s.due.batch with
  | { key := .phase i, target := some p, time := _ } :: _ => event s s.active (firePhase (popBatch s) i p)
  | _ => .next s

/-- HOLD_EXPIRE (R55, R68). -/
def execHoldExpire (s : State) : Result :=
  match s.due.batch with
  | { key := .hold h, target := _, time := _ } :: _ => event s s.active (expireHold (popBatch s) h)
  | _ => .next s

/-- NOTICE_EXPIRE (R113, R68). -/
def execNoticeExpire (s : State) : Result :=
  match s.due.batch with
  | { key := .notice n, target := _, time := _ } :: _ => event s s.active (expireNotice (popBatch s) n)
  | _ => .next s

/-- Whether the gap timer has expired (R46). -/
def gapExpired (s : State) : Bool :=
  match s.journal.gapStart with
  | some t => s.active && ticksExpired s.clock.ticks t s.setup.gap
  | none => false

/-- The tail slot is skipped (R47). -/
def skipGap (s : State) : State := advanceTail (raise s .journalGap (le8 s.journal.tail.val) [])

/-- GAP_TIMEOUT (R47). -/
def execGapTimeout (s : State) : Result := event s (gapExpired s) (skipGap s)

/-- Whether a panel's idle timer has expired (R129). -/
def idleExpired (s : State) (p : PanelIx) : Bool :=
  match (s.scan.get p).idleStart with
  | some t => s.active && ticksExpired s.clock.ticks t 10
  | none => false

/-- PASS_IDLE_TIMEOUT (R129). -/
def execPassIdleTimeout (p : PanelIx) (s : State) : Result := event s (idleExpired s p) (endPass s p)

end Sys2Proof.Machine
end

