-- ==== Sys2Proof/Machine/Dispatch.lean ====
section
/-! DEFINITION. What each command does: one arm for each row of spec/opcode_table.json. -/

namespace Sys2Proof.Machine

def exec (i : Instr) (s : State) : Host.Outcome State Fault Refusal :=
  match i with
  | .resetNAssert => Sys2Proof.Machine.execResetNAssert s
  | .resetNRelease sbase => Sys2Proof.Machine.execResetNRelease sbase s
  | .lrstNAssert => Sys2Proof.Machine.execLrstNAssert s
  | .lrstNRelease => Sys2Proof.Machine.execLrstNRelease s
  | .controllerRequest tag burst => Sys2Proof.Machine.execControllerRequest tag burst s
  | .forwardGrant => Sys2Proof.Machine.execForwardGrant s
  | .memoryResponse tag status data => Sys2Proof.Machine.execMemoryResponse tag status data s
  | .hostTimeout tag => Sys2Proof.Machine.execHostTimeout tag s
  | .ownRequestTimeout tag => Sys2Proof.Machine.execOwnRequestTimeout tag s
  | .centiTick => Sys2Proof.Machine.execCentiTick s
  | .lobbySecond => Sys2Proof.Machine.execLobbySecond s
  | .phaseFire => Sys2Proof.Machine.execPhaseFire s
  | .holdExpire => Sys2Proof.Machine.execHoldExpire s
  | .noticeExpire => Sys2Proof.Machine.execNoticeExpire s
  | .gapTimeout => Sys2Proof.Machine.execGapTimeout s
  | .passIdleTimeout panel => Sys2Proof.Machine.execPassIdleTimeout panel s
  | .commitFetchIssue => Sys2Proof.Machine.execCommitFetchIssue s
  | .commitFetchComplete tag status data => Sys2Proof.Machine.execCommitFetchComplete tag status data s
  | .journalFetchIssue => Sys2Proof.Machine.execJournalFetchIssue s
  | .journalFetchComplete tag status data => Sys2Proof.Machine.execJournalFetchComplete tag status data s
  | .writeBackIssue => Sys2Proof.Machine.execWriteBackIssue s
  | .writeBackComplete tag status => Sys2Proof.Machine.execWriteBackComplete tag status s
  | .cellTake => Sys2Proof.Machine.execCellTake s
  | .glyphReadIssue => Sys2Proof.Machine.execGlyphReadIssue s
  | .glyphReadResponse tag status data => Sys2Proof.Machine.execGlyphReadResponse tag status data s
  | .rowWriteIssue => Sys2Proof.Machine.execRowWriteIssue s
  | .rowWriteResponse tag status => Sys2Proof.Machine.execRowWriteResponse tag status s
  | .paintComplete => Sys2Proof.Machine.execPaintComplete s
  | .glyphFetchIssue => Sys2Proof.Machine.execGlyphFetchIssue s
  | .glyphFetchComplete tag status data => Sys2Proof.Machine.execGlyphFetchComplete tag status data s
  | .reportRecordWrite => Sys2Proof.Machine.execReportRecordWrite s
  | .reportHeaderWrite => Sys2Proof.Machine.execReportHeaderWrite s
  | .reportWriteComplete tag status => Sys2Proof.Machine.execReportWriteComplete tag status s
  | .setupRead => Sys2Proof.Machine.execSetupRead s
  | .setupReadComplete tag status data => Sys2Proof.Machine.execSetupReadComplete tag status data s
  | .buildRead => Sys2Proof.Machine.execBuildRead s
  | .buildReadComplete tag status data => Sys2Proof.Machine.execBuildReadComplete tag status data s
  | .restartReload => Sys2Proof.Machine.execRestartReload s

end Sys2Proof.Machine
end

