-- ==== Sys2Proof/Machine/Step.lean ====
section
/-! DEFINITION. The step: the command at the front of the queue, or one REFCLK cycle when no command waits. -/

namespace Sys2Proof.Machine

/-- The commands that a REFCLK cycle makes: a centi-tick on a carry (R60, R61). -/
def carried (c : Clock × Bool) : List Instr := if c.2 then [.centiTick] else []

/-- One REFCLK cycle (log 1): the response timers' cycle count advances (R159), and the NCO adds its step (R60). -/
def refclk (s : State) : State :=
  if s.resetN then
    { s with
      traffic := { s.traffic with cycles := s.traffic.cycles + 1 }
      clock := s.clock.cycle.1
      pending := s.pending ++ carried s.clock.cycle }
  else s

/-- One step: the front command's meaning on the state with the rest of the queue, or a REFCLK cycle. -/
def step (s : State) : Host.Outcome State Fault Refusal :=
  match s.pending with
  | c :: rest => exec c { s with pending := rest }
  | [] => .next (refclk s)

/-- A command put at the front of the queue. -/
def State.withCommand (s : State) (c : Instr) : State := { s with pending := c :: s.pending }

/-- The state with the command that a word spells at the front of its queue; no word spells one. -/
def State.withFetchWord (s : State) (nbits w : Nat) : State :=
  match decodeTableWord nbits w with
  | some c => s.withCommand c
  | none => s

end Sys2Proof.Machine
end

