-- ==== Sys2Proof/Safety.lean ====
section
/-! DEFINITION. The laws that a safe state keeps, and the views of a state that statements use. -/

namespace Sys2Proof.Machine

/-! ### Commands and requests -/

/-- The kind of own request that a command issues (R163). -/
def issuedKind : Instr → Option (OwnPurpose → Bool)
  | .commitFetchIssue => some OwnPurpose.isCommitFetch
  | .journalFetchIssue => some OwnPurpose.isJournalFetch
  | .writeBackIssue => some OwnPurpose.isWriteBack
  | .glyphReadIssue => some OwnPurpose.isGlyphRead
  | .rowWriteIssue => some OwnPurpose.isRowWrite
  | .glyphFetchIssue => some OwnPurpose.isGlyphFetch
  | .reportRecordWrite => some OwnPurpose.isReportRecord
  | .reportHeaderWrite => some OwnPurpose.isReportHeader
  | .setupRead => some OwnPurpose.isSetupRead
  | .buildRead => some OwnPurpose.isBuildRead
  | _ => none

/-- Whether a tag belongs to one of the part's own requests. -/
def Holder.isOwn : Holder → Bool
  | .own _ _ _ => true
  | _ => false

/-- How far a requester stands behind the round-robin place: 0 for the one after it (R163). -/
def turnsAfter (place r : Requester) : Nat := (r.code + 4 - place.code) % 5

/-- A tag is reserved for a live own request, with a response that carries the request's beats. -/
def liveOwn (s : State) (m : MemTag) (u : TagUse) (p : OwnPurpose) : Prop :=
  s.resetN = true ∧ s.traffic.tags.get m = some u ∧ ∃ started, u.holder = .own p started .live

/-- Whether a memory tag is reserved for a live own request of a purpose that `f` picks. -/
def ownLive (s : State) (f : OwnPurpose → Bool) (m : MemTag) : Bool :=
  match s.traffic.tags.get m with
  | some u =>
    match u.holder with
    | .own p _ .live => f p
    | _ => false
  | none => false

/-- How many own requests of a purpose that `f` picks are outstanding for the limits of their requester: one that has
timed out no longer counts (log 51). -/
def liveOwns (s : State) (f : OwnPurpose → Bool) : Nat := (List.finRange 128).countP (ownLive s f)

/-- The command by which memory answers an own request with a status, and for a read with data (R160). -/
def ownAnswer (m : MemTag) (st : Status) (data : List Byte) : OwnPurpose → Instr
  | .setupRead _ => .setupReadComplete m st data
  | .buildRead _ => .buildReadComplete m st data
  | .commitFetch _ _ => .commitFetchComplete m st data
  | .journalFetch => .journalFetchComplete m st data
  | .writeBack _ => .writeBackComplete m st
  | .glyphRead _ => .glyphReadResponse m st data
  | .rowWrite _ _ => .rowWriteResponse m st
  | .glyphFetch _ => .glyphFetchComplete m st data
  | .reportRecord => .reportWriteComplete m st
  | .reportHeader => .reportWriteComplete m st

/-- The command by which memory answers FAULT to an own request (R160). -/
def faultAnswer (m : MemTag) (p : OwnPurpose) : Instr := ownAnswer m .fault [] p

/-- Whether an own request is a write, whose answer carries no data (section 10.1). -/
def OwnPurpose.isWrite : OwnPurpose → Bool
  | .writeBack _ => true
  | .rowWrite _ _ => true
  | .reportRecord => true
  | .reportHeader => true
  | .setupRead _ => false
  | .buildRead _ => false
  | .commitFetch _ _ => false
  | .journalFetch => false
  | .glyphRead _ => false
  | .glyphFetch _ => false

/-- A live own read ends by the command `c` with the outcome `res`, which leaves `ended` of the traffic: memory answers
it by the command `answer`, and its tag is free (R160); or its response timer expires, which counts as a FAULT, and its
tag stays reserved (R159, R171). -/
def readEnds (s : State) (m : MemTag) (u : TagUse) (p : OwnPurpose) (answer : Status → List Byte → Instr) (c : Instr)
    (res : ReadResult) (ended : State) : Prop :=
  s.resetN = true ∧ s.traffic.tags.get m = some u ∧ ∃ started, u.holder = .own p started .live ∧
    ((∃ st data, c = answer st data ∧ answerWf u st data = true ∧ res = resultFor st data ∧
        ended = { s with traffic := { s.traffic with tags := setAt s.traffic.tags m none } }) ∨
      (c = .ownRequestTimeout m ∧ s.timerLength ≤ s.traffic.cycles - started ∧ res = .fault ∧
        ended = { s with traffic := { s.traffic with
          tags := setAt s.traffic.tags m (some { u with holder := .own p started .timedOut }) } }))

/-- A tag is reserved for a controller request in use, which memory has answered with `st` and `data`. -/
def answeredInUse (s : State) (m : MemTag) (u : TagUse) (e : InFlight) (st : Status) (data : List Byte) : Prop :=
  s.resetN = true ∧ s.traffic.tags.get m = some u ∧ u.holder = .inFlight ∧
    s.traffic.inflight.get (ctlTagOf m) = some e ∧ answerWf u st data = true

/-- The tags after one has been freed. -/
def onlyFreed (s t : State) (m : MemTag) : Prop :=
  t.traffic = { s.traffic with tags := setAt s.traffic.tags m none }

/-- The traffic after a response to a request in use has been returned: its tag and its entry are free. -/
def onlyReturned (s t : State) (m : MemTag) : Prop :=
  t.traffic = { s.traffic with
    tags := setAt s.traffic.tags m none, inflight := setAt s.traffic.inflight (ctlTagOf m) none }

/-- What stands on the controller port once an OK response to a request in use has been returned (R160). -/
def okReturned (s : State) (m : MemTag) (e : InFlight) (data : List Byte) : List CtlResponse :=
  s.ctlOut ++ [{ tag := ctlTagOf m, status := .ok, data := returnedData s.part e.plan .ok data }]

/-- A report as it stands in the queue: its kind, the lobby seconds of its raising, its subject and its detail. -/
def report (k : ReportKind) (now : LobbyTime) (subject detail : List Byte) : Report :=
  { kind := k, time := now, subject := subject, detail := detail }

/-- Reports are accepted (R166): the part is in a state that accepts them and the ring has room for `n`. -/
def acceptsReports (s : State) (n : Nat) : Prop :=
  s.part ≠ .loading ∧ s.part ≠ .transparent ∧ n ≤ s.reports.room

/-- A rule from `s` to `t` makes these reports in this order: they join the queue when the ring has room for them all.
-/
def reportsMade (s t : State) (made : List Report) : Prop :=
  acceptsReports s made.length → t.reports.queue = s.reports.queue ++ made

/-! ### What the requesters offer (R163) -/

/-- No write to the block of an address is outstanding (R162). -/
def blockFree (s : State) (a : BitVec 32) : Prop :=
  ∀ m u, s.traffic.tags.get m = some u → u.isWrite = true → u.addr.toNat / 128 ≠ a.toNat / 128

/-- A request of the Commit Unit is one it may offer: a record fetch while fewer than four are outstanding (R12), the
next burst of a fetch under way, the fetch of a marked tail slot (R42), or a queued write-back in RUNNING while none is
outstanding (R15, R17). -/
def commitOffered (s : State) : CommitOffer → Prop
  | .fetch => s.active = true ∧ s.commit.queue ≠ [] ∧ s.commit.fetches.length < 4
  | .burst r => s.active = true ∧
      ∃ f, s.commit.fetches.find? (fun x => x.record == r) = some f ∧ 0 < f.issued ∧ f.issued < (fetchShape r).1
  | .journal => s.active = true ∧ s.journal.marks.get s.journal.tail = true ∧ s.journal.fetch = .none
  | .writeBack w => s.part = .running ∧ liveOwns s OwnPurpose.isWriteBack = 0 ∧
      match w with
      | .showing i => i ∈ s.commit.wbShowings
      | .journal => s.commit.wbJournal = true
      | .stream i => i ∈ s.commit.wbStreams

/-- A paint waits to issue its glyph read (R101). -/
def awaitsGlyph (s : State) (x : Paint) : Prop := s.active = true ∧ x.stage = .glyph ∧ x.glyphIssued = false

/-- A paint issues no more row writes: it has issued all, or has stopped issuing (R102, R104, R107). -/
def rowsOver (x : Paint) : Prop :=
  x.stage = .ended ∨ (x.stage = .rows ∧ (x.rowsIssued = 32 ∨ x.interrupted = true))

/-- A paint may issue a row write: it has rows left to issue, and every earlier paint issues no more (R102, R107). -/
def rowsNext (s : State) (x : Paint) : Prop :=
  s.part = .running ∧ x.stage = .rows ∧ x.rowsIssued < 32 ∧ x.interrupted = false ∧
    ∃ before behind, s.painter.slots = before ++ x :: behind ∧ ∀ y ∈ before, rowsOver y

/-- A request of the Cell Painter is one it may offer (R101, R102). -/
def paintOffered (s : State) : PaintOffer → Prop
  | .glyph k => ∃ x ∈ s.painter.slots, x.slot = k ∧ awaitsGlyph s x
  | .row k => ∃ x, x.slot = k ∧ rowsNext s x

/-- A request of the Report Unit is one it may offer: in RUNNING and QUIET, while none of its writes is outstanding, the
header in its write-back queue or the head record (R167; one write at a time is the reading of log 33). -/
def reportOffered (s : State) : ReportOffer → Prop
  | .header => s.active = true ∧ liveOwns s OwnPurpose.isReport = 0 ∧ s.reports.headerQueued = true
  | .record => s.active = true ∧ liveOwns s OwnPurpose.isReport = 0 ∧ s.reports.queue ≠ []

/-- The write-back next in turn: the head of the first queue that is not empty, from the one after the last served
(R15). -/
def turnHead (c : CommitUnit) : Option WriteBack :=
  let showing := c.wbShowings.head?.map WriteBack.showing
  let journal := if c.wbJournal then some WriteBack.journal else none
  let stream := c.wbStreams.head?.map WriteBack.stream
  match c.wbLast with
  | .showings => (journal.or stream).or showing
  | .journal => (stream.or showing).or journal
  | .streams => (showing.or journal).or stream

/-- The own request that a command has granted: the arbiter's choice, when it is one of the command's kind (R163). -/
def grantOf (s : State) (c : Instr) : Option (Requester × OwnPurpose) :=
  match issuedKind c, arbiterPick s with
  | some mine, some (.own r) =>
    match ownRequest s r with
    | some (p, _) => if mine p then some (r, p) else none
    | none => none
  | _, _ => none

/-- What a command leaves of the Commit Unit's offers: all of them; but a granted one goes from the front, and after
burst 0, 1 or 2 of a layout's fetch its next burst takes that place (R12, R162, R163). -/
def commitLeft (s : State) (c : Instr) : List CommitOffer :=
  match grantOf s c with
  | some (.commit, .commitFetch (.layout p) k) =>
    if k < 3 then .burst (.layout p) :: s.offers.commit.tail else s.offers.commit.tail
  | some (.commit, _) => s.offers.commit.tail
  | _ => s.offers.commit

/-- What a command leaves of the Cell Painter's offer: it is gone once granted. -/
def paintLeft (s : State) (c : Instr) : Option PaintOffer :=
  match grantOf s c with
  | some (.painter, _) => none
  | _ => s.offers.painter

/-- What a command leaves of the Report Unit's offer: it is gone once granted. -/
def reportLeft (s : State) (c : Instr) : Option ReportOffer :=
  match grantOf s c with
  | some (.report, _) => none
  | _ => s.offers.report

/-- A request of the Report Unit is held by the block hazard rule: a write to the block of the report header, or of
slot P, is outstanding (R162, R167). -/
def reportStays (s : State) : ReportOffer → Prop
  | .header => ¬blockFree s (BitVec.ofNat 32 s.setup.windows.reports)
  | .record => ¬blockFree s (BitVec.ofNat 32 (s.setup.windows.reports + 64 + 16 * s.reports.p.toNat))

open Classical in
/-- What the Commit Unit offers after command `c` from `s` to `t`: first, in the order in which it stood, all that it
offered before, less a grant, and may still offer; behind that, each kind of request that has become ready once, a
write-back only when none is kept, and in its turn (R15, R162, R163). The order among requests that one rule makes ready
is left open (log 8). -/
def commitChosen (s : State) (c : Instr) (t : State) : Prop :=
  let kept := (commitLeft s c).filter fun o => decide (commitOffered t o)
  ∃ new, t.offers.commit = kept ++ new ∧ new.Nodup ∧
    (∀ o ∈ new, commitOffered t o ∧ o ∉ kept ∧ ∀ r, o ≠ .burst r) ∧
    (∀ w, .writeBack w ∈ new → turnHead t.commit = some w ∧ ∀ v, .writeBack v ∉ kept) ∧
    (commitOffered t .fetch → .fetch ∈ t.offers.commit) ∧ (commitOffered t .journal → .journal ∈ t.offers.commit) ∧
    ((∃ w, commitOffered t (.writeBack w)) → ∃ w, .writeBack w ∈ t.offers.commit)

/-- What the Cell Painter offers after command `c` from `s` to `t`: what it offered before, less a grant, stays while it
may be offered; otherwise a glyph read, of the earlier take (log 37), before a row write; and nothing only when it may
offer nothing (R102, R162). -/
def paintChosen (s : State) (c : Instr) (t : State) : Prop :=
  (∀ o, paintLeft s c = some o → paintOffered t o → t.offers.painter = some o) ∧
  (∀ o, t.offers.painter = some o → paintOffered t o ∧
    (paintLeft s c = some o ∨ match o with
      | .glyph k => ∃ before x behind, t.painter.slots = before ++ x :: behind ∧ x.slot = k ∧ awaitsGlyph t x ∧
          ∀ y ∈ before, ¬awaitsGlyph t y
      | .row _ => ∀ x ∈ t.painter.slots, ¬awaitsGlyph t x)) ∧
  (t.offers.painter = none → ∀ o, ¬paintOffered t o)

/-- What the Report Unit offers after command `c` from `s` to `t`: what it offered before, less a grant, stays while it
may be offered and the block hazard rule holds it (log 9); otherwise the header before a record; and nothing only when
it may offer nothing (R162, R167). -/
def reportChosen (s : State) (c : Instr) (t : State) : Prop :=
  (∀ o, reportLeft s c = some o → reportOffered t o → reportStays t o → t.offers.report = some o) ∧
  (∀ o, t.offers.report = some o → reportOffered t o ∧
    ((reportLeft s c = some o ∧ reportStays t o) ∨ (reportOffered t .header → o = .header))) ∧
  (t.offers.report = none → ∀ o, ¬reportOffered t o)

/-! ### Seats and holds -/

/-- The seats that the live holds of a showing hold. -/
def heldBy (s : State) (i : ShowingIx) : Nat :=
  ((List.finRange 64).map fun h =>
    match s.holds.get h with
    | some x => if x.showing = i then x.seats else 0
    | none => 0).sum

/-- How many showings stand for a title (R31). -/
def standing (s : State) (t : TitleIx) : Nat :=
  (List.finRange 256).countP fun i => standsFor (s.seats.entries.get i) == some t

/-- The seat arithmetic of an entry (R20). -/
def Seat.sound (e : Seat) : Prop := e.sold + e.held ≤ e.capacity ∧ e.left = e.capacity - e.sold - e.held

/-- The SOLD_OUT of a rule from `s` to `t` for a showing: seats left went from above 0 to 0, and the phase is ON_SALE,
LAST_CALL or STARTED (R32). -/
def soldOutMade (s t : State) (i : ShowingIx) : List Report :=
  let f := t.seats.entries.get i
  if 0 < (s.seats.entries.get i).left ∧ f.left = 0 ∧ (f.phase = .onSale ∨ f.phase = .lastCall ∨ f.phase = .started) then
    [report .soldOut s.clock.now (le8 i.val) (le8 f.title.val ++ le8 f.hall.val)]
  else []

/-! ### The journal -/

/-- The tail fetch has been answered OK in RUNNING or QUIET, and its record counts (R43). -/
def tailTaken (s : State) (m : MemTag) (u : TagUse) (data : List Byte) : Prop :=
  liveOwn s m u .journalFetch ∧ u.isWrite = false ∧ data.length = 8 * u.beats ∧ s.active = true ∧
    s.journal.fetch = .fetching

/-- A fetched record passes the first three cases of R44. -/
def recordInRange (r : JournalRec) : Prop :=
  1 ≤ r.action ∧ r.action ≤ 5 ∧ 1 ≤ r.seats ∧ r.seats ≤ 16 ∧ r.desk ≤ 7

/-- The report of a journal action that was clamped: slot and showing, seats requested and applied (R49 to R51). -/
def clampMade (s : State) (k : ReportKind) (r : JournalRec) (applied : Nat) : List Report :=
  if applied < r.seats then
    [report k s.clock.now (le8 s.journal.tail.val ++ le8 r.showing.val) (le16 r.seats ++ le16 applied)]
  else []

/-- The tail has advanced by one slot (R45): no fetch is under way, the slot's mark is clear, the lap has toggled if the
tail has passed 63, and the gap timer has started for the new tail if the gap condition holds, and has stopped if not
(R46). -/
def tailAdvanced (s t : State) : Prop :=
  t.journal.tail.val = (s.journal.tail.val + 1) % 64 ∧ t.journal.fetch = .none ∧
    t.journal.lap = (if s.journal.tail = 63 then s.journal.lap.other else s.journal.lap) ∧
    t.journal.marks = setAt s.journal.marks s.journal.tail false ∧
    t.journal.gapStart = if gapCondition t.journal then some s.clock.ticks else none

/-- The part after a journal slot that changed no seat and no hold: its tail fetch is over, the tail has advanced, the
header is marked for write-back, and there may be new reports. -/
def onlySkipped (s t : State) (m : MemTag) : Prop :=
  onlyFreed s t m ∧ tailAdvanced s t ∧
    t = { s with
      traffic := t.traffic, journal := t.journal, commit := { s.commit with wbJournal := true }
      reports := t.reports, offers := t.offers }

/-! ### Faults and containment (R171 to R174) -/

/-- The code of the containment action that MEMORY_FAULT names (R172, R188). -/
def actionCode (s : State) : Nat :=
  if s.setup.mode = .transparent then 2
  else if s.part = .quiet then 3
  else if s.setup.mode = .quiet then 1 else 0

/-- The MEMORY_FAULT of an own request (R171, R188). -/
def memoryFaultReport (s : State) (r : Requester) (addr : BitVec 32) (isWrite : Bool) : Report :=
  report .memoryFault s.clock.now (le8 r.code) (le32 addr.toNat ++ le8 (classify s addr.toNat).code ++
    le8 (kindCode isWrite) ++ le8 (actionCode s))

/-- A paint as entry to QUIET leaves it (R107). -/
def interruptedPaint (p : Paint) : Paint :=
  if p.stage = .ended ∨ (p.stage = .rows ∧ 32 ≤ p.rowsIssued) then p
  else if p.stage = .rows ∧ p.rowsDone = p.rowsIssued then { p with interrupted := true, stage := .ended }
  else { p with interrupted := true }

/-- Entry to QUIET from `s` (R107, R173): paints are interrupted, and no row write and no write-back is offered. -/
def quietFrom (s t : State) : Prop :=
  t = { s with
    part := .quiet
    painter := { s.painter with slots := s.painter.slots.map interruptedPaint }
    offers := t.offers } ∧
  (∀ k, t.offers.painter ≠ some (.row k)) ∧ ∀ w, .writeBack w ∉ t.offers.commit

/-- Entry to TRANSPARENT from `s`: the commit and write-back queues and the Due List empty, every record and the tail
fetch idle, plans lost, timers stopped, own requests awaited for their tags alone, and none offered (R17, R57, R69,
R138, R174). -/
def transparentFrom (s t : State) : Prop :=
  t = { s with
    part := .transparent
    traffic := { s.traffic with tags := t.traffic.tags, inflight := t.traffic.inflight }
    commit := { s.commit with
      queue := [], fetches := [], fetch := .const .idle, wbShowings := [], wbJournal := false, wbStreams := [] }
    journal := { s.journal with fetch := .none, gapStart := none }
    due := { list := [], batch := [] }
    scan := t.scan
    reports := { s.reports with headerQueued := false }
    offers := t.offers } ∧
  (∀ m, s.traffic.tags.get m = none → t.traffic.tags.get m = none) ∧
  (∀ m u, s.traffic.tags.get m = some u → (∀ p started, u.holder ≠ .own p started .live) →
    t.traffic.tags.get m = some u) ∧
  (∀ m u p started, s.traffic.tags.get m = some u → u.holder = .own p started .live →
    t.traffic.tags.get m = some { u with holder := .own p started .dropped }) ∧
  (∀ k, t.traffic.inflight.get k = (s.traffic.inflight.get k).map fun e => { e with plan := .none }) ∧
  (∀ p, t.scan.get p = { s.scan.get p with idleStart := none }) ∧
  ∀ r, ownRequest t r = none

/-- `s` with a memory tag freed and the reports of `t`: what stands as the containment mode acts on an answered fault.
-/
def faultTaken (s t : State) (m : MemTag) : State :=
  { s with traffic := { s.traffic with tags := setAt s.traffic.tags m none }, reports := t.reports }

/-! ### Records -/

/-- Where a record's revision byte lies: its window and its offset there (R7, R184 to R186). -/
def revisionPlace : RecordId → Window × Nat
  | .showing i => (.showings, 64 * i.val + 31)
  | .notice i => (.notices, 64 * i.val + 63)
  | .layout i => (.layouts, 512 * i.val + 511)
  | .title i => (.text, 16384 + 32 * i.val + 31)
  | .catalog i => (.trailers, 16 * i.val + 15)
  | .rotation i => (.trailers, 1024 + 64 * i.val + 63)

/-- Where a commit byte or observed field lies in its range (R7 to R11, R183 to R187); a frame tag stands alone in its
own. -/
def itemPlace : CommitItem → Nat
  | .revision r _ => (revisionPlace r).2
  | .lap i _ => 64 + 16 * i.val + 15
  | .consumer _ => 8
  | .overflow _ => 1
  | .restart _ => 3968
  | .timeSet _ _ => 3980
  | .tag _ _ _ _ => 0

/-- Two rectangles share a pixel (R77). -/
def sharePixel (a b : Rect) : Prop :=
  ∃ x y, a.x ≤ x ∧ x < a.x + a.w ∧ a.y ≤ y ∧ y < a.y + a.h ∧ b.x ≤ x ∧ x < b.x + b.w ∧ b.y ≤ y ∧ y < b.y + b.h

/-- A line descriptor for which R78 refuses a layout record in a case, in the code of the case's reason. In the cases of
two lines it is the later one (log 17). -/
def badLine (s : State) (p : PanelIx) (bs : List Byte) (reason n : Nat) : Prop :=
  let g := s.setup.panels.get p
  let ln := rawLine bs n
  let kind := lineKindOf ln.kind
  match reason with
  | 2 => kind = none ∨ (kind = some .trailer ∧ (3 < ln.stream ∨ ln.x % 32 ≠ 0)) ∨
      (rawText ln = true ∧ ((kind ≠ some .clock ∧ 15 < ln.rank) ∨ 15 < ln.normal ∨ 15 < ln.alt ∨ 15 < ln.soldOut ∨
        15 < ln.started ∨ ln.x % 16 ≠ 0 ∨ (kind = some .notice ∧ (ln.width = 0 ∨ 48 < ln.width))))
  | 3 => kind = some .trailer ∧ ∃ k, k < n ∧ lineKindOf (rawLine bs k).kind = some .trailer
  | 4 => kind = some .trailer ∧ (s.setup.streams.get (Fin.ofNat 4 ln.stream)).enabled = false
  | 5 => (rawText ln = true ∨ kind = some .trailer) ∧
      (g.width < (rawRect s ln).x + (rawRect s ln).w ∨ g.height < (rawRect s ln).y + (rawRect s ln).h)
  | 6 => ∃ k, k < n ∧
      let other := rawLine bs k
      (rawText ln = true ∨ rawText other = true) ∧ (rawText ln = true ∨ kind = some .trailer) ∧
        (rawText other = true ∨ lineKindOf other.kind = some .trailer) ∧ sharePixel (rawRect s ln) (rawRect s other)
  | 7 => ∃ k, k < n ∧
      let other := rawLine bs k
      let roster := fun x => x = some LineKind.rosterWide ∨ x = some LineKind.rosterNarrow
      ln.rank = other.rank ∧ ((roster kind ∧ roster (lineKindOf other.kind)) ∨
        (kind = some .notice ∧ lineKindOf other.kind = some .notice))
  | _ => False

/-- The banner spec for which R78 refuses a layout record in a case. -/
def badBanner (s : State) (p : PanelIx) (bs : List Byte) (reason : Nat) : Prop :=
  let g := s.setup.panels.get p
  let b := bannerSpecOf bs
  b.enabled = true ∧
    match reason with
    | 2 => 8 < b.dim
    | 5 => g.width ≤ b.x ∨ g.height < b.y + 32
    | 8 => ∃ n, n < 16 ∧ lineKindOf (rawLine bs n).kind = some .trailer ∧
        sharePixel { x := b.x, y := b.y, w := min (b.x + 768) g.width - b.x, h := 32 } (rawRect s (rawLine bs n))
    | _ => False

/-- A case of R78 holds of a layout record. -/
def layoutCase (s : State) (p : PanelIx) (bs : List Byte) (reason : Nat) : Prop :=
  (reason = 1 ∧ (s.setup.panels.get p).enabled = false) ∨ (∃ n, n < 16 ∧ badLine s p bs reason n) ∨
    badBanner s p bs reason

/-- Every line of a panel that `sel` picks shows the content that its line rule gives it (sections 5.5 to 5.8):
computing it once more changes no target and no shown figure. -/
def linesShown (t : State) (p : PanelIx) (sel : LineKind → Prop) : Prop :=
  ∀ l, sel (t.line p l).kind → (computeLine t p l).roster = t.roster

/-- Every CLOCK line of every panel shows the minute of now as HH:MM (R90, R91). -/
def clocksShow (t : State) : Prop :=
  let minute := (t.setup.origin + t.clock.now.toNat / 60) % 1440
  ∀ r : CellRef, (t.line r.panel r.line).kind = .clock → ∀ code,
    [48 + minute / 600, 48 + minute / 60 % 10, 58, 48 + minute % 60 / 10, 48 + minute % 10][r.cell.val]? = some code →
    cellAt t.roster.targets r = { code := BitVec.ofNat 8 code, pair := (t.line r.panel r.line).normal }

/-- A layout record has been refused in a case (R79), with the first line descriptor of the case, or 255 for the banner
spec when none is (log 17; under PANEL_DISABLED a free value, log 15). -/
def layoutRefused (s t : State) (p : PanelIx) (bs : List Byte) (reason : Nat) : Prop :=
  acceptsReports s 1 → ∃ x, t.reports.queue = s.reports.queue ++
      [report .layoutRefused s.clock.now (le8 p.val) [BitVec.ofNat 8 reason, x]] ∧
    (∀ n, n < 16 → badLine s p bs reason n → (∀ k, k < n → ¬badLine s p bs reason k) → x = BitVec.ofNat 8 n) ∧
    (reason ≠ 1 → (∀ n, n < 16 → ¬badLine s p bs reason n) → x = 255)

/-- A layout record has become a panel's layout (R80, R106): its paints are void, its old marks clear, every cell of its
text lines is UNKNOWN and queued, painting or on a marked line, its roster is computed anew, its lines are assigned from
it and show their content, with each shown figure the one the quantizer leaves from none (R88, log 55); no other panel's
layout, targets or painted content have changed. -/
def layoutInstalled (s t : State) (p : PanelIx) (bs : List Byte) : Prop :=
  t.roster.layouts = setAt s.roster.layouts p (layoutOf bs) ∧ t.roster.titles = s.roster.titles ∧
  (∀ q, q ≠ p → t.roster.rosters.get q = s.roster.rosters.get q ∧ t.roster.assign.get q = s.roster.assign.get q ∧
    t.roster.shown.get q = s.roster.shown.get q ∧ t.roster.targets.get q = s.roster.targets.get q) ∧
  t.roster.rosters.get p = rosterOf t p ∧
  (∀ l, lineAt t.roster.assign p l =
    if (t.line p l).kind.isRoster then (t.roster.rosters.get p)[(t.line p l).rank]? else none) ∧
  (∀ l, lineAt t.roster.shown p l =
    match lineAt t.roster.assign p l with
    | none => none
    | some i =>
      let left := (t.seats.entries.get i).left
      let flt := (layoutOf bs).filter
      if (t.seats.entries.get i).phase = .started ∨ left ≤ flt.f then none
      else some (max (left / flt.q * flt.q) (flt.f + 1))) ∧
  linesShown t p (fun _ => True) ∧
  t.painter.slots = s.painter.slots.map (fun x => if x.ref.panel = p then { x with void := true } else x) ∧
  (∀ r : CellRef, r.panel ≠ p → (r ∈ s.painter.queue → r ∈ t.painter.queue) ∧
    cellMarks t r = { cellMarks s r with queued := (cellMarks t r).queued }) ∧
  ∀ r : CellRef, r.panel = p →
    (cellMarks t r).faulted = false ∧ (cellMarks t r).painting = (cellMarks s r).painting ∧
    (isCell t r = true → (cellMarks t r).painted = none ∧
      ((cellMarks t r).queued = true ∨ (cellMarks t r).painting = true ∨ lineAt t.painter.redraw p r.line = true)) ∧
    (isCell t r = false → (cellMarks t r).painted = (cellMarks s r).painted ∧ r ∉ t.painter.queue) ∧
    (((s.painter.queue.filter fun x => x.panel != p).length +
        ((List.finRange 16).map fun l => (t.line p l).cells).sum ≤ 256) →
      lineAt t.painter.redraw p r.line = false)

/-! ### Cells and builds -/

/-- What becomes of the cells whose targets a rule has changed (R85, R97): one that is stale loses its faulted mark
unless it is queued or painting, and then is queued, painting or on a marked line; every other place keeps its marks. -/
def offeredByTarget (s t : State) (changed : CellRef → Prop) : Prop :=
  t.painter.slots = s.painter.slots ∧ (∃ more, t.painter.queue = s.painter.queue ++ more) ∧
  ∀ r,
    let m := cellMarks s r
    let n := cellMarks t r
    (¬changed r ∨ stale t r = false ∨ m.queued = true ∨ m.painting = true → n = m) ∧
    (changed r → stale t r = true → m.queued = false → m.painting = false →
      n = { m with faulted := false, queued := n.queued } ∧
        (n.queued = true ∨ lineAt t.painter.redraw r.panel r.line = true))

/-- A rule recomputes the lines of the kinds `sel` on the panels `touched` (R85, R93): they show their content, with
roster lines after the panel's roster is computed and its lines assigned (R83, R84); nothing else of the boards changes,
and each cell whose target changed is offered. -/
def boardsFollow (s t : State) (touched : PanelIx → Prop) (sel : LineKind → Prop) : Prop :=
  t.roster = { s.roster with
    rosters := t.roster.rosters, assign := t.roster.assign, shown := t.roster.shown, targets := t.roster.targets } ∧
  (∀ p, touched p → linesShown t p sel ∧
    (sel .rosterWide → t.roster.rosters.get p = rosterOf t p ∧ ∀ l, lineAt t.roster.assign p l =
      if (t.line p l).kind.isRoster then (rosterOf t p)[(t.line p l).rank]? else lineAt s.roster.assign p l)) ∧
  (∀ p, ¬touched p ∨ ¬sel .rosterWide → t.roster.rosters.get p = s.roster.rosters.get p ∧
    t.roster.assign.get p = s.roster.assign.get p ∧ t.roster.shown.get p = s.roster.shown.get p) ∧
  (∀ r : CellRef, ¬touched r.panel ∨ ¬sel (s.line r.panel r.line).kind →
    cellAt t.roster.targets r = cellAt s.roster.targets r) ∧
  offeredByTarget s t fun r => cellAt t.roster.targets r ≠ cellAt s.roster.targets r

/-- The kinds of roster lines. -/
def rosterKind (k : LineKind) : Prop := k = .rosterWide ∨ k = .rosterNarrow

/-- What a rule from `s` to `t` that changes a showing's entry brings with it (R30): no other entry changes; a change of
phase, seats left, sold or held stamps the time of last change and marks the showing for write-back (R14); and when any
of the eight fields changes, the rosters follow of the panels whose hall mask has the entry's old hall or its new one,
where a VACANT entry has none (log 22). -/
def seatChanged (s t : State) (i : ShowingIx) : Prop :=
  let e := s.seats.entries.get i
  let f := t.seats.entries.get i
  let counts := f.phase ≠ e.phase ∨ f.left ≠ e.left ∨ f.sold ≠ e.sold ∨ f.held ≠ e.held
  let marked := s.commit.wbShowings
  let covers := fun (p : PanelIx) (y : Seat) =>
    y.phase ≠ .vacant ∧ (s.roster.layouts.get p).filter.halls.getLsbD y.hall.val = true
  (∀ j, j ≠ i → t.seats.entries.get j = s.seats.entries.get j) ∧
  (counts → f.changed = s.clock.now ∧ t.commit.wbShowings = if i ∈ marked then marked else marked ++ [i]) ∧
  (¬counts → f.changed = e.changed ∧ t.commit.wbShowings = marked) ∧
  boardsFollow s t (fun p => { e with changed := f.changed } ≠ f ∧ (covers p e ∨ covers p f)) rosterKind

/-- The entry of a showing after a rule that gives it new counts of sold and held: seats left follows (R20), and nothing
else changes but the time of last change. -/
def countsGiven (s t : State) (i : ShowingIx) (sold held : Nat) : Prop :=
  let e := s.seats.entries.get i
  t.seats.entries.get i =
    { e with
      sold := sold, held := held, left := e.capacity - sold - held, changed := (t.seats.entries.get i).changed } ∧
  seatChanged s t i

/-- A stream's status word is marked for write-back exactly when its free set or its presented slot has changed, or
`also` holds (R14, R142, R143, R145). -/
def statusMarked (s t : State) (i : StreamIx) (also : Prop) : Prop :=
  let x := s.trailers.streams.get i
  let y := t.trailers.streams.get i
  let marked := s.commit.wbStreams
  let changed := freeSet x ≠ freeSet y ∨ presented x ≠ presented y ∨ also
  (changed → t.commit.wbStreams = if i ∈ marked then marked else marked ++ [i]) ∧
    (¬changed → t.commit.wbStreams = marked)

/-- What becomes of the cells in a rule that may change targets more than once (R85, R97): the queue gains cells at its
tail, no paint and no painted content changes, and a cell that is then stale against another target than before is
queued, painting or on a marked line; a place whose target is never changed, as `never` says, keeps its marks. -/
def offeredOnTheWay (s t : State) (never : CellRef → Prop) : Prop :=
  t.painter.slots = s.painter.slots ∧ (∃ more, t.painter.queue = s.painter.queue ++ more) ∧
  ∀ r,
    let m := cellMarks s r
    let n := cellMarks t r
    n = { m with queued := n.queued, faulted := n.faulted } ∧ (never r → n = m) ∧
    (cellAt t.roster.targets r ≠ cellAt s.roster.targets r → isCell t r = true → stale t r = true →
      n.queued = true ∨ n.painting = true ∨ lineAt t.painter.redraw r.panel r.line = true)

/-- The clock after an accepted Setup Block (R60, R75, R177): a running clock takes the step and keeps the rest; one
that no load has started starts at the initial time with nothing counted, and no time set is pending (log 49). -/
def clockStarted (c : Clock) (bs : List Byte) : Clock :=
  if c.running = true then { c with step := some (stepOf bs) }
  else { c with
    running := true, acc := 0, step := some (stepOf bs), sub := 0, now := BitVec.ofNat 20 (u32 bs 40), secondsDue := 0
    withheld := 0, pendingSet := none }

/-- Start and Containment as a build begins (R178): no read of it has been issued, answered or taken. -/
def buildBegun (x : Start) (resume : Bool) : Start :=
  { x with
    stage := .build, resume := resume, setupIssued := 0, setupGot := [], buildIssued := 0, buildDone := 0
    buildGot := [], layoutParts := [], posted := [] }

/-- The Roster Unit holds nothing (R95): every line UNUSED, palette pixels 0, banner specs disabled, hall masks 0, F 0,
Q 1, H 0; titles of length 0 with text bytes 0; rosters empty, lines with no showing and no shown figure, and a space in
pair 0 at every cell place. -/
def boardsEmpty (u : RosterUnit) : Prop :=
  (∀ p,
    let y := u.layouts.get p
    (∀ l, (y.lines.get l).kind = .unused) ∧ (∀ k, y.palette.get k = { fg := .zero, bg := .zero }) ∧
    y.banner.enabled = false ∧ y.filter.halls = 0 ∧ y.filter.f = 0 ∧ y.filter.q = 1 ∧ y.filter.h = 0 ∧
    u.rosters.get p = [] ∧ ∀ l, lineAt u.assign p l = none ∧ lineAt u.shown p l = none) ∧
  (∀ i, u.titles.get i = { text := List.replicate 28 0, length := 0 }) ∧
  ∀ r, cellAt u.targets r = { code := 32, pair := 0 }

/-- The answer to build read `k` is the next to be taken, and not the last of the build (log 13). -/
def nextBuildRead (s : State) (m : MemTag) (u : TagUse) (k : Nat) (item : BuildItem) : Prop :=
  liveOwn s m u (.buildRead k) ∧ u.isWrite = false ∧ s.rebuilding = true ∧ s.start.stage = .build ∧
    buildItem s.start.resume k = some item ∧ k + 1 < buildTotal s.start.resume ∧
    s.start.buildDone = k ∧ s.start.buildGot = []

/-- The part after one build read has been taken: its tag is free, and what the read's records do not reach is as it
was, but for the last-accepted revisions. -/
def builtBase (s t : State) (k : Nat) : State :=
  { s with
    traffic := t.traffic, commit := { s.commit with revs := t.commit.revs }, offers := t.offers
    start := { s.start with buildDone := k + 1 } }

/-- The last-accepted revisions of the covered records are those read, and no other has changed (R18, R178). -/
def revsRead (s t : State) (covered : RecordId → Option Byte) : Prop :=
  ∀ r, t.commit.revs.get r = (covered r).getD (s.commit.revs.get r)

/-! ### Laws that every step keeps -/

/-- The law of tags and blocks: the part's own requests carry tags 64–127 and controller requests tags 0–63 (R158), and
no two writes to one block are outstanding (R162). -/
structure TagLaw (s : State) : Prop where
  /-- tags 64–127 are those of the part's own requests -/
  own : ∀ m u, s.traffic.tags.get m = some u → (64 ≤ m.val ↔ u.holder.isOwn = true)
  /-- a block with a write outstanding has no second one -/
  apart : ∀ m n u v, m ≠ n → s.traffic.tags.get m = some u → s.traffic.tags.get n = some v →
    u.isWrite = true → v.isWrite = true → blockOf u.addr ≠ blockOf v.addr

/-- The law of capacities: the forward queue (R157), the grant count (R163), the subsecond and withheld-second counts
(R61, R63), the render queue (R96) and the paint slots (R102) keep their bounds. -/
structure CapacityLaw (s : State) : Prop where
  /-- up to 16 requests wait -/
  queue : s.traffic.queue.length ≤ 16
  /-- 0 to 8 grants -/
  grants : s.traffic.grants ≤ 8
  /-- 0 to 99 centi-ticks -/
  sub : s.clock.sub < 100
  /-- 0 to 255 seconds -/
  withheld : s.clock.withheld ≤ 255
  /-- up to 256 cells -/
  render : s.painter.queue.length ≤ 256
  /-- two slots -/
  slots : s.painter.slots.length ≤ 2

/-- The law of sellable counts (R31): each title's count is the number of its showings that stand for it. -/
def SellableLaw (s : State) : Prop := ∀ t, s.seats.sellable.get t = standing s t

/-- The law of seats (R20, R28, R54): the arithmetic of every entry; held is what the live holds hold; a showing that is
VACANT, CLOSED or CANCELLED has none, and a VACANT one no seats; and while a load or a build goes on no hold is live. -/
structure SeatLaw (s : State) : Prop where
  /-- sold, held and seats left fit the capacity -/
  sound : ∀ i, (s.seats.entries.get i).sound
  /-- held is the sum over the live holds -/
  held : ∀ i, (s.seats.entries.get i).held = heldBy s i
  /-- only a showing that passes the phase gate has live holds -/
  gate : ∀ i h x, s.holds.get h = some x → x.showing = i → passesGate (s.seats.entries.get i).phase = true
  /-- a VACANT showing has capacity 0 -/
  vacant : ∀ i, (s.seats.entries.get i).phase = .vacant → (s.seats.entries.get i).capacity = 0
  /-- a PHASE entry's target is LAST_CALL, STARTED or CLOSED -/
  targets : ∀ e ∈ s.due.list ++ s.due.batch, ∀ p, e.target = some p → p = .lastCall ∨ p = .started ∨ p = .closed
  /-- RESET_N leaves no hold, and loads and builds begin and end without one -/
  loads : s.resetN = false ∨ s.part = .loading ∨ (s.rebuilding = true ∧ s.start.stage = .build) →
    ∀ h, s.holds.get h = none

/-- The law of cells (R96): a stale cell is queued, painting, faulted, or on a line marked redraw-pending; the render
queue holds no cell twice, and its cells are those with the queued mark. -/
structure CellLaw (s : State) : Prop where
  /-- the first law of R96 -/
  stale : ∀ r, isCell s r = true → stale s r = true →
    (cellMarks s r).queued = true ∨ (cellMarks s r).painting = true ∨ (cellMarks s r).faulted = true ∨
      lineAt s.painter.redraw r.panel r.line = true
  /-- no cell twice -/
  once : s.painter.queue.Nodup
  /-- the queued marks are the queue's -/
  marked : ∀ r, (cellMarks s r).queued = true ↔ r ∈ s.painter.queue

/-- How many panels' passes have latched a trailer slot (R141). -/
def passesOn (s : State) (i : StreamIx) (k : FrameIx) : Nat :=
  (List.finRange 24).countP fun p =>
    match (s.scan.get p).trailer with
    | some t => t.stream == i && t.slot == k
    | none => false

/-- The law of trailer slots and passes (R125, R140, R141): a slot's latch count is the number of passes that have
latched it; at most one slot of a stream is newest, and it is COMPLETE; a COMPLETE slot is newest or latched; a FREE
slot is neither; an IDLE panel has no latch; and no pass stands before the first load. -/
structure SlotLaw (s : State) : Prop where
  /-- the latch counts -/
  latches : ∀ i k, ((s.trailers.streams.get i).slots.get k).latches = passesOn s i k
  /-- one newest slot -/
  one : ∀ i k l, ((s.trailers.streams.get i).slots.get k).newest = true →
    ((s.trailers.streams.get i).slots.get l).newest = true → k = l
  /-- the newest slot is COMPLETE -/
  newest : ∀ i k, ((s.trailers.streams.get i).slots.get k).newest = true →
    ((s.trailers.streams.get i).slots.get k).state = .complete
  /-- a COMPLETE slot has a reason to stay -/
  complete : ∀ i k, ((s.trailers.streams.get i).slots.get k).state = .complete →
    ((s.trailers.streams.get i).slots.get k).newest = true ∨ 0 < ((s.trailers.streams.get i).slots.get k).latches
  /-- a FREE slot is not latched -/
  free : ∀ i k, ((s.trailers.streams.get i).slots.get k).state = .free →
    ((s.trailers.streams.get i).slots.get k).latches = 0
  /-- an IDLE panel has neither part of a latch, and its timer is stopped -/
  idle : ∀ p, (s.scan.get p).scanning = false →
    (s.scan.get p).banner = none ∧ (s.scan.get p).trailer = none ∧ (s.scan.get p).idleStart = none
  /-- no pass stands while RESET_N is low or in LOADING -/
  loads : s.resetN = false ∨ s.part = .loading → ∀ p, (s.scan.get p).trailer = none

/-- How many references a cache entry should have (R116): one for each loading or ready banner that contains its code,
and one for each pass latch whose banner does. -/
def references (s : State) (e : CacheIx) : Nat :=
  (List.finRange 32).countP (fun n => e ∈ heldEntries (s.notices.entries.get n)) +
    (List.finRange 24).countP (fun p => e ∈ latchRefs (s.scan.get p).banner)

/-- The law of the banner glyph cache (R116 to R118): every entry's count is its number of references; a HELD entry has
one at least and an EMPTY one none; no two entries hold one code; the entries of a loading or ready banner are those of
its distinct codes, all HELD once it is ready, and a latched entry is HELD; and the wait list holds the waiting banners,
each once. -/
structure CacheLaw (s : State) : Prop where
  /-- the counts -/
  counts : ∀ e, (s.notices.cache.get e).refs = references s e
  /-- a HELD entry is referred to -/
  held : ∀ e, (s.notices.cache.get e).fill.isHeld = true → 0 < (s.notices.cache.get e).refs
  /-- an EMPTY entry is not -/
  empty : ∀ e, (s.notices.cache.get e).fill = .empty → (s.notices.cache.get e).refs = 0
  /-- one entry a code -/
  codes : ∀ e f c, (s.notices.cache.get e).fill.code = some c → (s.notices.cache.get f).fill.code = some c → e = f
  /-- the entries of a banner that holds references are those of its codes -/
  banners : ∀ n, (s.notices.entries.get n).state = .bannerLoading ∨ (s.notices.entries.get n).state = .bannerReady →
    (s.notices.entries.get n).entries.map (·.1) = codeSet (s.notices.entries.get n).fields ∧
      ∀ x ∈ (s.notices.entries.get n).entries, (s.notices.cache.get x.2).fill.code = some x.1
  /-- a READY banner's entries are HELD, and a LOADING one's are not all -/
  ready : ∀ n, ((s.notices.entries.get n).state = .bannerReady →
      ∀ x ∈ (s.notices.entries.get n).entries, (s.notices.cache.get x.2).fill.isHeld = true) ∧
    ((s.notices.entries.get n).state = .bannerLoading →
      ∃ x ∈ (s.notices.entries.get n).entries, (s.notices.cache.get x.2).fill.isHeld = false)
  /-- a latched entry is HELD -/
  latched : ∀ p, ∀ e ∈ latchRefs (s.scan.get p).banner, (s.notices.cache.get e).fill.isHeld = true
  /-- the wait list -/
  waits : s.notices.waitList.Nodup ∧ ∀ n, n ∈ s.notices.waitList ↔ (s.notices.entries.get n).state = .bannerWaiting

/-- Whether the Due List should hold an entry of a kind and subject (R65). While the tables are read, a notice that has
been posted has its entry before it enters its state (R123). -/
def expects (s : State) : DueKey → Bool
  | .phase i => passesGate (s.seats.entries.get i).phase
  | .hold h => (s.holds.get h).isSome
  | .notice n =>
    (if s.rebuilding then decide (n ∈ s.start.posted) else (s.notices.entries.get n).state != .idle) &&
      (s.notices.entries.get n).fields.lifetime != 0

/-- The law of the Due List (R65, R66, R68): the list and the firing batch hold one entry for each event that is
expected and none other; every entry of the list is pending, nearest first; lifetimes are what a record can hold; and
the wait list holds waiting banners only. -/
structure DueLaw (s : State) : Prop where
  /-- one entry a kind and subject -/
  once : ((s.due.list ++ s.due.batch).map (·.key)).Nodup
  /-- the expected entries -/
  expected : ∀ k, k ∈ (s.due.list ++ s.due.batch).map (·.key) ↔ expects s k = true
  /-- only a PHASE entry has a target -/
  targets : ∀ e ∈ s.due.list ++ s.due.batch, ((∃ i, e.key = .phase i) ↔ e.target.isSome = true)
  /-- distances of 1 to 2^19 -/
  pending : ∀ e ∈ s.due.list, passed s.clock.now e.time = false
  /-- in ascending order of the distance -/
  order : s.due.list.Pairwise fun a b => distance s.clock.now a.time ≤ distance s.clock.now b.time
  /-- a lifetime is a two-byte field -/
  lifetimes : ∀ n, (s.notices.entries.get n).fields.lifetime < 65536
  /-- the wait list -/
  waits : ∀ n ∈ s.notices.waitList, (s.notices.entries.get n).state = .bannerWaiting

/-! ### Laws from reset on -/

/-- The law of offers: every request that is offered may be (R162), and the requesters keep their limits: four record
fetches (R12), one write-back (R15), one tail fetch, of which the fetch state knows (R42), four glyph fetches (R119) and
one report write (R167). A request that has timed out no longer counts (log 51). -/
structure OfferLaw (s : State) : Prop where
  /-- the Commit Unit's offers -/
  commit : ∀ o ∈ s.offers.commit, commitOffered s o
  /-- the Cell Painter's offer -/
  painter : ∀ o, s.offers.painter = some o → paintOffered s o
  /-- the Report Unit's offer -/
  report : ∀ o, s.offers.report = some o → reportOffered s o
  /-- up to four record fetches -/
  fetches : s.commit.fetches.length ≤ 4
  /-- one write-back -/
  writeBacks : liveOwns s OwnPurpose.isWriteBack ≤ 1
  /-- one tail fetch -/
  tail : liveOwns s OwnPurpose.isJournalFetch ≤ 1 ∧
    (s.journal.fetch = .none → liveOwns s OwnPurpose.isJournalFetch = 0)
  /-- up to four glyph fetches -/
  glyphs : liveOwns s OwnPurpose.isGlyphFetch ≤ 4
  /-- one report write -/
  reports : liveOwns s OwnPurpose.isReport ≤ 1

/-- The tables are being read (R178). -/
def reading (s : State) : Prop := s.rebuilding = true ∧ s.start.stage = .build

/-- The build read that reads the first notices (R178, log 13). -/
def firstNoticeRead (s : State) : Nat := 240 + if s.start.resume then 9 else 0

/-- The law of a build (R37, R58, R123): no hold is live, what has not been read is as the owners' clearing left it, and
the posted notices enter their states when all have been read. -/
structure BuildLaw (s : State) : Prop where
  /-- the Hold Table starts empty -/
  holds : ∀ h, s.holds.get h = none
  /-- a showing not yet read is VACANT -/
  seats : ∀ i, 2 * s.start.buildDone ≤ i.val → (s.seats.entries.get i).phase = .vacant
  /-- each posted notice has been read, and is posted once -/
  posted : s.start.posted.Nodup ∧ ∀ n ∈ s.start.posted, n.val < 2 * (s.start.buildDone - firstNoticeRead s)
  /-- the posted notices, and no others, leave IDLE when all have been read -/
  entered : ∀ n, (s.notices.entries.get n).state ≠ .idle ↔
    n ∈ s.start.posted ∧ firstNoticeRead s + 16 ≤ s.start.buildDone

/-- The law of the glyph cache and that of the Due List, in every state in which they hold: with nothing placed while
RESET_N is low and in LOADING, while the tables are read, and in RUNNING and QUIET. -/
structure StandingLaws (s : State) : Prop where
  /-- while RESET_N is low and in LOADING no event is expected -/
  fresh : s.resetN = false ∨ s.part = .loading → CacheLaw s ∧ DueLaw s ∧ s.due.list = [] ∧ s.due.batch = [] ∧
    (∀ h, s.holds.get h = none) ∧ (∀ i, (s.seats.entries.get i).phase = .vacant) ∧
    ∀ n, (s.notices.entries.get n).state = .idle
  /-- while the tables are read -/
  build : reading s → CacheLaw s ∧ DueLaw s ∧ BuildLaw s
  /-- in RUNNING and QUIET -/
  run : s.active = true → CacheLaw s ∧ DueLaw s

end Sys2Proof.Machine
end

