-- ==== Sys2Proof/Certificates/Slice0/Obligations.lean ====
section
/-! DEFINITION. The statements for the provers. A statement of what a command does gives the next state as the old one
with the fields it may change, so that every field it does not name is unchanged; `offers` is the requesters' choice of
their next requests, made at the end of every rule. -/

open Sys2Proof Sys2Proof.Machine

/-! ### The queue of commands, the pins and REFCLK -/

/-- A step runs the command at the front of the queue on the state with the rest of the queue. -/
def Obligations.StepRunsTheFrontCommand : Prop :=
  ∀ (c : Instr) (rest : List Instr) (s : State),
    step { s with pending := c :: rest } = exec c { s with pending := rest }

/-- On an empty queue a step is one REFCLK cycle (the model's choice, log 1): the NCO adds its step, and a carry puts a
centi-tick in the queue (R60). CENTI_TICK: the centi-tick count advances, from 65535 to 0, and the subsecond count; at
100 that is 0 again and a second is completed (R61), which waits to be taken (log 4). -/
def Obligations.ReferenceCycleAndCentiTick : Prop :=
  (∀ (s : State) (st : BitVec 32),
    s.pending = [] → s.resetN = true → s.clock.running = true → s.clock.step = some st →
    ∃ t, step s = .next t ∧
      t = { s with
        traffic := { s.traffic with cycles := s.traffic.cycles + 1 }
        clock := { s.clock with acc := s.clock.acc + st }
        pending := if 4294967296 ≤ s.clock.acc.toNat + st.toNat then [.centiTick] else [] }) ∧
  ∀ s : State, s.resetN = true → s.clock.running = true →
    ∃ t, exec .centiTick s = .next t ∧
      t = { s with clock := t.clock, offers := t.offers } ∧
      t.clock.ticks.toNat = (s.clock.ticks.toNat + 1) % 65536 ∧
      (s.clock.sub ≠ 99 → t.clock = { s.clock with ticks := s.clock.ticks + 1, sub := s.clock.sub + 1 }) ∧
      (s.clock.sub = 99 → t.clock = { s.clock with
        ticks := s.clock.ticks + 1, sub := 0, secondsDue := s.clock.secondsDue + 1 })

/-- RESET_N_ASSERT gives every block its power-on values (R176). Beside that the statement holds choices of the model:
what the ports have carried, the free-value counter and the waiting commands stay (log 6), LRST_N keeps its level (log
32), the part state while RESET_N is low is LOADING (log 3), and what R176 gives no value has the value of log 23.
RESET_N_RELEASE samples SBASE, enters LOADING and starts the reads of the Setup Block at SBASE × 512 MiB (R176). -/
def Obligations.PowerOnResetAndRelease : Prop :=
  (∀ s : State, exec .resetNAssert s = .next
    { State.reset with
      lrstN := s.lrstN, memOut := s.memOut, ctlOut := s.ctlOut, free := s.free, pending := s.pending }) ∧
  ∀ (s : State) (b : BitVec 3), s.resetN = false →
    ∃ t, exec (.resetNRelease b) s = .next t ∧
      t = { s with
        resetN := true, part := .loading
        start := { s.start with sbase := some b, stage := .setupReads }
        offers := t.offers } ∧
      (s.start.setupIssued = 0 →
        ownRequest t .start = some (.setupRead 0, readBurst (b.toNat * 536870912) 16))

/-- R36: the seat entries after RESET_N and after LRST_N. -/
def Obligations.SeatsAfterReset : Prop :=
  ∀ s : State,
    (∃ t, exec .resetNAssert s = .next t ∧
      (∀ i, let e := t.seats.entries.get i
        e.phase = .vacant ∧ e.capacity = 0 ∧ e.sold = 0 ∧ e.held = 0 ∧ e.left = 0 ∧ e.title = 0 ∧ e.hall = 0 ∧
          e.start = 0 ∧ e.changed = 0 ∧ writeBackPending t i = false) ∧
      (∀ k, t.seats.sellable.get k = 0) ∧ t.due.list = [] ∧ t.due.batch = []) ∧
    ∃ t, exec .lrstNAssert s = .next t ∧ t.seats = s.seats

/-- LRST_N_ASSERT empties the queue and frees every entry; a forwarded request keeps its memory tag and its block, and
belongs from now on to its commit record alone (R161). LRST_N_RELEASE opens the port again. -/
def Obligations.LinkReset : Prop :=
  ∀ s : State,
    (s.lrstN = true → ∃ t, exec .lrstNAssert s = .next t ∧
      t = { s with
        lrstN := false
        traffic := { s.traffic with queue := [], inflight := Vector.replicate 64 none, tags := t.traffic.tags }
        offers := t.offers } ∧
      (∀ m, s.traffic.tags.get m = none → t.traffic.tags.get m = none) ∧
      (∀ m u, s.traffic.tags.get m = some u → u.holder ≠ .inFlight → t.traffic.tags.get m = some u) ∧
      (∀ m u e, s.traffic.tags.get m = some u → u.holder = .inFlight →
        s.traffic.inflight.get (ctlTagOf m) = some e →
        t.traffic.tags.get m = some { u with holder := .afterReset e.commits })) ∧
    exec .lrstNRelease s = .next { s with lrstN := true }

/-! ### The controller port -/

/-- CONTROLLER_REQUEST outside the Scan Tracker's reads. A request that the port takes with a free tag gets its
in-flight entry and joins the tail of the forward queue (R155). One whose tag is in use is answered FAULT at once and
reported TAG_REUSED; it enters no queue, and the request that holds the tag is not disturbed (R156). With no room in the
ring that report is dropped, and the overflow flag is set and, if it was clear, the header marked; in TRANSPARENT it is
discarded (R166). A request has not reached the part while RESET_N or LRST_N is low, in LOADING, or with 16 requests
queued (R155); that it then leaves no trace is the reading of log 2, that the data beats of the FAULT are free values
that of log 15. -/
def Obligations.RequestAtThePort : Prop :=
  (∀ (s : State) (tag : CtlTag) (b : Burst),
    s.resetN = true → s.lrstN = true → s.part ≠ .loading → s.traffic.queue.length < 16 → b.wf = true →
    s.traffic.inflight.get tag = none →
    (∀ p row off, classify s b.addr.toNat = .panelFrame p row off → b.isWrite = true ∨ s.active = false ∨
      (s.setup.panels.get p).width * 4 ≤ off) →
    ∃ t, exec (.controllerRequest tag b) s = .next t ∧
      t = { s with
        traffic := { s.traffic with
          queue := s.traffic.queue ++ [tag]
          inflight := setAt s.traffic.inflight tag (some
            { burst := b, cls := classify s b.addr.toNat, plan := .none, commits := [], stage := .queued,
              started := s.traffic.cycles }) }
        offers := t.offers }) ∧
  (∀ (s : State) (tag : CtlTag) (b : Burst) (e : InFlight),
    s.resetN = true → s.lrstN = true → s.part ≠ .loading → s.traffic.queue.length < 16 → b.wf = true →
    s.traffic.inflight.get tag = some e →
    ∃ t r, exec (.controllerRequest tag b) s = .next t ∧
      t = { s with
        ctlOut := s.ctlOut ++ [r], reports := t.reports, free := t.free, offers := t.offers } ∧
      r.tag = tag ∧ r.status = .fault ∧ r.data.length = (if b.isWrite then 0 else 8 * b.beats) ∧
      (acceptsReports s 1 → t.reports = { s.reports with queue := s.reports.queue ++
        [report .tagReused s.clock.now (le8 tag.val) (le32 b.addr.toNat ++ le8 (kindCode b.isWrite))] }) ∧
      (s.part ≠ .transparent → 63 ≤ (s.reports.p - s.reports.c).toNat + s.reports.queue.length →
        t.reports = { s.reports with
          overflow := true, headerQueued := s.reports.headerQueued || !s.reports.overflow }) ∧
      (s.part = .transparent → t.reports = s.reports)) ∧
  ∀ (s : State) (tag : CtlTag) (b : Burst),
    s.resetN = false ∨ s.lrstN = false ∨ s.part = .loading ∨ 16 ≤ s.traffic.queue.length →
    exec (.controllerRequest tag b) s = .next s

/-- A read of a panel's pixel columns taken in RUNNING or QUIET updates the panel's scan and gets its plan (R126, R130).
On an IDLE panel or above the last row it starts a pass (R127): its banner is the Notice Unit's offer, if the layout's
banner spec is enabled, and its trailer part the presented slot of the TRAILER line's stream; otherwise the latch stays.
The offer is the READY banner of the panel with the highest priority, the newest of them (R121). That it is taken before
a walk of the wait list that the release of the old latch brings is the reading of log 16. -/
def Obligations.PanelReadScanned : Prop :=
  (∀ (s : State) (tag : CtlTag) (b : Burst) (p : PanelIx) (row off : Nat),
    s.resetN = true → s.lrstN = true → s.active = true → s.traffic.queue.length < 16 → b.wf = true →
    s.traffic.inflight.get tag = none → b.isWrite = false →
    classify s b.addr.toNat = .panelFrame p row off → off < (s.setup.panels.get p).width * 4 →
    ∃ t, exec (.controllerRequest tag b) s = .next t ∧
      (t.scan.get p).scanning = true ∧ (t.scan.get p).lastRow = row ∧
      (t.scan.get p).idleStart = some s.clock.ticks ∧ (∀ q, q ≠ p → t.scan.get q = s.scan.get q) ∧
      t.traffic = { s.traffic with
        queue := s.traffic.queue ++ [tag]
        inflight := setAt s.traffic.inflight tag (some
          { burst := b, cls := .panelFrame p row off, plan := planRead t p row off b.beats, commits := [],
            stage := .queued, started := s.traffic.cycles }) } ∧
      t = { s with
        traffic := t.traffic, scan := t.scan, notices := t.notices, trailers := t.trailers
        commit := { s.commit with wbStreams := t.commit.wbStreams }
        offers := t.offers } ∧
      ((s.scan.get p).scanning = false ∨ row < (s.scan.get p).lastRow →
        let spec := (s.roster.layouts.get p).banner
        (t.scan.get p).banner = (if spec.enabled then
          (bannerOffered s.notices p).map fun n =>
            { entries := positionEntries (s.notices.entries.get n), bx := spec.x, byRow := spec.y, fg := spec.fg
              bg := spec.bg, dim := spec.dim }
          else none) ∧
        (t.scan.get p).trailer = (trailerLine s p).bind fun ln =>
          (presented (s.trailers.streams.get ln.stream)).map fun k =>
            { stream := ln.stream, slot := k, base := (s.setup.streams.get ln.stream).slots.get k
              stride := (s.setup.streams.get ln.stream).stride, x0 := ln.x, y0 := ln.y
              width := (s.setup.streams.get ln.stream).width, height := (s.setup.streams.get ln.stream).height }) ∧
      ((s.scan.get p).scanning = true → (s.scan.get p).lastRow ≤ row →
        (t.scan.get p).banner = (s.scan.get p).banner ∧ (t.scan.get p).trailer = (s.scan.get p).trailer ∧
          t.notices = s.notices ∧ t.trailers = s.trailers ∧ t.commit = s.commit)) ∧
  ∀ (u : NoticeUnit) (p : PanelIx),
    (∀ n, bannerOffered u p = some n →
      (u.entries.get n).state = .bannerReady ∧ (u.entries.get n).fields.mask.getLsbD p.val = true ∧
      ∀ m, (u.entries.get m).state = .bannerReady → (u.entries.get m).fields.mask.getLsbD p.val = true →
        (u.entries.get m).fields.priority < (u.entries.get n).fields.priority ∨
          ((u.entries.get m).fields.priority = (u.entries.get n).fields.priority ∧
            (u.entries.get m).seq.toNat ≤ (u.entries.get n).seq.toNat)) ∧
    (bannerOffered u p = none → ∀ m, (u.entries.get m).state = .bannerReady →
      (u.entries.get m).fields.mask.getLsbD p.val = false)

/-! ### Forwarding and the arbiter -/

/-- FORWARD_GRANT, when the arbiter's choice is the controller: the head is issued under the memory tag equal to its
controller tag, at the redirect address of a REDIRECT plan and at its own address otherwise (R134), with its forwarded
lanes, and becomes FORWARDED with its commit record (R157, R158). Only a write into a panel's or a trailer slot's rows
is handed to a block and may change more (R5). A write into a panel's rows spoils the cells whose rectangles hold the
row and one of the columns it enables: one that is painting is marked spoiled, a faulted one stays, and any other
becomes UNKNOWN and is queued, or its line is marked when the queue is full (R105; that a column counts when one of its
bytes is enabled is the reading of log 18). A write into an enabled stream's pixel columns makes the slot FILLING; a
COMPLETE one loses its item and its newest mark, with TEAR if a pass has latched it; the stream's other fields stay, and
its status word is marked for write-back exactly when its free set or its presented slot has changed (R142, R14). -/
def Obligations.HeadForwarded : Prop :=
  ∀ (s : State) (tag : CtlTag) (e : InFlight),
    s.resetN = true → arbiterPick s = some .controller → headEntry s = some (tag, e) →
    (∀ a, e.plan = .redirect a → forwardedAddr e = a) ∧
    ((∀ a, e.plan ≠ .redirect a) → forwardedAddr e = e.burst.addr) ∧
    ∃ t, exec .forwardGrant s = .next t ∧
      t.memOut = s.memOut ++ [{ tag := memTagOf tag, burst :=
        { e.burst with addr := forwardedAddr e, lanes := forwardedLanes s e.cls e.burst } }] ∧
      t.traffic = { s.traffic with
        queue := s.traffic.queue.tail
        inflight := setAt s.traffic.inflight tag (some
          { e with commits := recordedItems s e.cls e.burst, stage := .forwarded })
        tags := setAt s.traffic.tags (memTagOf tag) (some
          { addr := forwardedAddr e, isWrite := e.burst.isWrite, beats := e.burst.beats, holder := .inFlight })
        grants := t.traffic.grants } ∧
      ((∃ r, ownReady s r = true) → t.traffic.grants = s.traffic.grants + 1) ∧
      ((∀ r, ownReady s r = false) → t.traffic.grants = 0) ∧
      t = { s with
        traffic := t.traffic, memOut := t.memOut, painter := t.painter, trailers := t.trailers
        commit := { s.commit with wbStreams := t.commit.wbStreams }
        reports := t.reports, offers := t.offers } ∧
      (e.burst.isWrite = false ∨ s.part = .loading ∨ s.part = .transparent ∨
          ((∀ p row off, e.cls ≠ .panelFrame p row off) ∧ ∀ i k row off, e.cls ≠ .slotPixels i k row off) →
        t = { s with traffic := t.traffic, memOut := t.memOut, offers := t.offers }) ∧
      (e.burst.isWrite = true → s.part ≠ .loading → s.part ≠ .transparent →
        (∀ p row off, e.cls = .panelFrame p row off →
          t = { s with traffic := t.traffic, memOut := t.memOut, painter := t.painter, offers := t.offers } ∧
          t.painter.slots = s.painter.slots ∧ (∃ more, t.painter.queue = s.painter.queue ++ more) ∧
          ∀ r : CellRef,
            let x := (s.line p r.line).x + 16 * r.cell.val
            let y := (s.line p r.line).y
            let hit := r.panel = p ∧ isCell s r = true ∧ y ≤ row ∧ row < y + 32 ∧
              ∃ j v, j < 8 * e.burst.beats ∧ e.burst.lanes[j]? = some (some v) ∧
                off / 4 + j / 4 < (s.setup.panels.get p).width ∧ x ≤ off / 4 + j / 4 ∧ off / 4 + j / 4 < x + 16
            let m := cellMarks s r
            (¬hit → cellMarks t r = m) ∧
            (hit → m.painting = true → cellMarks t r = { m with spoiled := true }) ∧
            (hit → m.painting = false → m.faulted = true → cellMarks t r = m) ∧
            (hit → m.painting = false → m.faulted = false →
              cellMarks t r = { m with painted := none, queued := (cellMarks t r).queued } ∧
              ((cellMarks t r).queued = true ∨ lineAt t.painter.redraw r.panel r.line = true))) ∧
        (∀ i k row off, e.cls = .slotPixels i k row off →
          let old := (s.trailers.streams.get i).slots.get k
          let taken := (s.setup.streams.get i).enabled = true ∧ off < (s.setup.streams.get i).width * 4
          t = { s with
            traffic := t.traffic, memOut := t.memOut, trailers := t.trailers, reports := t.reports
            commit := { s.commit with wbStreams := t.commit.wbStreams }, offers := t.offers } ∧
          (∀ j, j ≠ i → t.trailers.streams.get j = s.trailers.streams.get j) ∧
          t.trailers.streams.get i =
            { s.trailers.streams.get i with slots := (t.trailers.streams.get i).slots } ∧
          (∀ l, l ≠ k → (t.trailers.streams.get i).slots.get l = (s.trailers.streams.get i).slots.get l) ∧
          statusMarked s t i False ∧
          (¬taken ∨ old.state = .filling →
            t = { s with traffic := t.traffic, memOut := t.memOut, offers := t.offers }) ∧
          (taken → old.state = .free → (t.trailers.streams.get i).slots.get k = { old with state := .filling } ∧
            t.reports = s.reports ∧ i ∈ t.commit.wbStreams) ∧
          (taken → old.state = .complete →
            (t.trailers.streams.get i).slots.get k = { old with state := .filling, newest := false, item := none } ∧
            (old.latches = 0 → t.reports = s.reports) ∧
            (0 < old.latches → acceptsReports s 1 → t.reports.queue = s.reports.queue ++
              [report .tear s.clock.now (le8 i.val) (le8 k.val ++ le16 old.latches)]))))

/-- In RUNNING and QUIET a forwarded window write has its enabled part-owned bytes replaced by their current values and
its other bytes passed; a 0 for the overflow byte passes (R4). In the other states every byte passes. The part-owned
bytes of each window (R3): bytes 32–47 of a showing record, from its seat entry (R34); the journal header's tail and lap
(R39); the report header's producer index and overflow byte (R187); and the 16 bytes of each stream's status word: the
set of its FREE slots, the presented slot, the current item and the cued item, with 255 for none, and zeros, where a
stream that is not enabled has an empty set and none (R145, R186). No other byte of a window is part-owned. -/
def Obligations.PartOwnedBytesSubstituted : Prop :=
  (∀ (s : State) (b : Burst) (w : Window) (off k : Nat) (lane : Option Byte),
    s.part = .running ∨ s.part = .quiet → b.lanes[k]? = some lane →
    (lane = none → (forwardedLanes s (.windowRecord w off) b)[k]? = some none) ∧
    (∀ v, lane = some v →
      (ownedByte s w (off + k) = none → (forwardedLanes s (.windowRecord w off) b)[k]? = some (some v)) ∧
      (∀ cur, ownedByte s w (off + k) = some cur → ¬(w = .reports ∧ off + k = 1 ∧ v = 0) →
        (forwardedLanes s (.windowRecord w off) b)[k]? = some (some cur)) ∧
      (w = .reports → off + k = 1 → v = 0 →
        (forwardedLanes s (.windowRecord w off) b)[k]? = some (some 0)))) ∧
  (∀ (s : State) (i : ShowingIx) (j : Nat),
    let e := s.seats.entries.get i
    let seat : List Byte := [BitVec.ofNat 8 e.phase.code, 0] ++ le16 e.left ++ le16 e.sold ++ le16 e.held ++
      le32 e.changed.toNat ++ [0, 0, 0, 0]
    (∀ v, seat[j]? = some v → ownedByte s .showings (64 * i.val + 32 + j) = some v) ∧
    (j < 32 → ownedByte s .showings (64 * i.val + j) = none) ∧
    (j < 16 → ownedByte s .showings (64 * i.val + 48 + j) = none)) ∧
  (∀ (s : State) (off : Nat),
    ownedByte s .journal 0 = some (BitVec.ofNat 8 s.journal.tail.val) ∧
    ownedByte s .journal 1 = some (match s.journal.lap with
      | .one => 1
      | .two => 2) ∧
    ownedByte s .reports 0 = some (BitVec.ofNat 8 s.reports.p.toNat) ∧
    ownedByte s .reports 1 = some (if s.reports.overflow then 1 else 0) ∧
    (2 ≤ off → ownedByte s .journal off = none ∧ ownedByte s .reports off = none) ∧
    (off < 2048 ∨ 2112 ≤ off → ownedByte s .trailers off = none) ∧
    ownedByte s .notices off = none ∧ ownedByte s .layouts off = none ∧ ownedByte s .text off = none) ∧
  (∀ (s : State) (i : StreamIx),
    let x := s.trailers.streams.get i
    let word := fun (j : Nat) => ownedByte s .trailers (2048 + 16 * i.val + j)
    let item := fun (c : Option CatalogIx) => some (match c with
      | some c => BitVec.ofNat 8 c.val
      | none => (255 : Byte))
    (∀ j, 4 ≤ j → j < 16 → word j = some 0) ∧
    ((s.setup.streams.get i).enabled = false →
      word 0 = some 0 ∧ word 1 = some 255 ∧ word 2 = some 255 ∧ word 3 = some 255) ∧
    ((s.setup.streams.get i).enabled = true →
      (∃ v, word 0 = some v ∧ v.toNat < 16 ∧
        ∀ k : FrameIx, v.getLsbD k.val = true ↔ (x.slots.get k).state = .free) ∧
      (∀ k, (x.slots.get k).newest = true → (∀ l, (x.slots.get l).newest = true → l = k) →
        word 1 = some (BitVec.ofNat 8 k.val)) ∧
      ((∀ k, (x.slots.get k).newest = false) → word 1 = some 255) ∧
      word 2 = item x.current ∧ word 3 = item x.cued)) ∧
  ∀ (s : State) (cls : ReqClass) (b : Burst), s.part ≠ .running → s.part ≠ .quiet →
    forwardedLanes s cls b = b.lanes

/-- The head of the forward queue is ready when its memory tag is free, no write to the block of its forwarded address
is outstanding, and it is no window write held in BUILDING and RESTARTING (R157, R162, R16); a head so held stays: a
FORWARD_GRANT does nothing (a command whose event does not stand has no effect by log 2). An own request is ready when
its requester offers it, no write to its block is outstanding, and an own tag is free (R163). The arbiter's choice
(R163): the controller head when no own request is ready, and while fewer than 8 grants count against a ready own
request; otherwise the first requester after the round-robin place that has a ready request; nothing when none is
ready. -/
def Obligations.ArbiterChoice : Prop :=
  (∀ s : State,
    (headReady s = true → (∀ r, ownReady s r = false) → arbiterPick s = some .controller) ∧
    (headReady s = true → (∃ r, ownReady s r = true) → s.traffic.grants < 8 → arbiterPick s = some .controller) ∧
    ((∃ r, ownReady s r = true) → headReady s = false ∨ 8 ≤ s.traffic.grants →
      ∃ r, arbiterPick s = some (.own r) ∧ ownReady s r = true ∧
        ∀ q, ownReady s q = true → turnsAfter s.traffic.place r ≤ turnsAfter s.traffic.place q) ∧
    (headReady s = false → (∀ r, ownReady s r = false) → arbiterPick s = none)) ∧
  (∀ (s : State) (e : InFlight),
    let window := (∃ w off, e.cls = .windowRecord w off) ∨ ∃ w, e.cls = .windowUnused w
    (heldWrite s e = true ↔ (s.part = .building ∨ s.part = .restarting) ∧ e.burst.isWrite = true ∧ window)) ∧
  (∀ s : State,
    (headReady s = true ↔ ∃ tag e, s.traffic.queue.head? = some tag ∧ s.traffic.inflight.get tag = some e ∧
      heldWrite s e = false ∧ s.traffic.tags.get (memTagOf tag) = none ∧ blockFree s (forwardedAddr e)) ∧
    (headReady s = false → exec .forwardGrant s = .next s)) ∧
  ∀ (s : State) (r : Requester),
    ownReady s r = true ↔ ∃ p b, ownRequest s r = some (p, b) ∧ blockFree s b.addr ∧
      ∃ m : MemTag, 64 ≤ m.val ∧ s.traffic.tags.get m = none

/-- What each requester asks for. Start and Containment reads the 32 blocks of the Setup Block in LOADING and RESTARTING
(R176), and in BUILDING the tables in the order of R178: showings, the journal under resume, titles, layouts, notices,
catalog entries and rotation tables (in blocks of 128 bytes by log 13). The Commit Unit asks for its first offer, the
Cell Painter and the Report Unit for their one. The Notice Unit asks for the glyph of the head of its list while fewer
than four fetches are outstanding, in RUNNING and QUIET (R119). A record fetch reads the bytes of the table of R12. The
offers are chosen at the end of every rule: the Commit Unit's are a record fetch while fewer than four are outstanding,
the fetch of a marked tail slot (R42) and one write-back, in RUNNING, of the three queues in turn (R15, R17), in the
order in which they became ready: what it offered before, less a grant, and may still offer keeps its place, and what
has become ready stands behind it; after a burst of a fetch its next burst is the first. The order of requests that one
rule readies is left open (log 8). The Cell Painter keeps the request it offers until it is granted or may not be
offered (R162, log 9); then it offers a glyph read before a row write, and a later paint's row only when every earlier
paint issues no more (R102). The Report Unit keeps its request while the block hazard rule holds it (R162, log 9); then
it offers the header before a record, one write at a time (R167, log 33). The earlier of two glyph reads comes first by
log 37, a paint that QUIET interrupts before its glyph read still reads it by log 31, and a request that has timed out
counts no longer by log 51. That each issuing command is the arbiter's grant is the reading of log 7. -/
def Obligations.RequestersOffer : Prop :=
  (∀ s : State,
    let setup := s.start.setupIssued
    let k := s.start.buildIssued
    let j := if s.start.resume then 9 else 0
    let n := k - 128 - j
    let w := s.setup.windows
    let reads := fun (addr beats : Nat) => ownRequest s .start = some (.buildRead k, readBurst addr beats)
    (s.start.stage = .setupReads →
      (s.part = .loading ∨ s.part = .restarting → setup < 32 →
        ownRequest s .start = some (.setupRead setup, readBurst (s.setupBase + 128 * setup) 16)) ∧
      ((s.part ≠ .loading ∧ s.part ≠ .restarting) ∨ 32 ≤ setup → ownRequest s .start = none)) ∧
    (s.start.stage = .build →
      (s.part ≠ .building ∧ s.part ≠ .restarting → ownRequest s .start = none) ∧
      (s.part = .building ∨ s.part = .restarting →
        (k < 128 → reads (w.showings + 128 * k) 16) ∧
        (128 ≤ k → k < 128 + j → reads (w.journal + 128 * (k - 128)) (if k = 136 then 8 else 16)) ∧
        (128 + j ≤ k →
          (n < 16 → reads (w.text + 16384 + 128 * n) 16) ∧
          (16 ≤ n → n < 112 → reads (w.layouts + 128 * (n - 16)) 16) ∧
          (112 ≤ n → n < 128 → reads (w.notices + 128 * (n - 112)) 16) ∧
          (128 ≤ n → n < 134 → reads (w.trailers + 128 * (n - 128)) 16) ∧
          (134 ≤ n → n < 136 → reads (w.trailers + 1024 + 128 * (n - 134)) 16) ∧
          (136 ≤ n → ownRequest s .start = none)))) ∧
    ((s.start.stage = .wait ∨ ∃ bs, s.start.stage = .accepted bs) → ownRequest s .start = none)) ∧
  (∀ s : State,
    let asks := fun (r : Requester) (p : OwnPurpose) => ∃ b, ownRequest s r = some (p, b)
    let first := s.offers.commit.head?
    (first = none → ownRequest s .commit = none) ∧
    (first = some .fetch → ∀ x, s.commit.queue.head? = some x → asks .commit (.commitFetch x 0)) ∧
    (∀ x f, first = some (.burst x) → s.commit.fetches.find? (fun y => y.record == x) = some f →
      asks .commit (.commitFetch x f.issued)) ∧
    (first = some .journal → asks .commit .journalFetch) ∧
    (∀ w, first = some (.writeBack w) → asks .commit (.writeBack w)) ∧
    (s.offers.painter = none → ownRequest s .painter = none) ∧
    (∀ k x, s.painter.slots.find? (fun y => y.slot == k) = some x →
      (s.offers.painter = some (.glyph k) → asks .painter (.glyphRead k)) ∧
      (s.offers.painter = some (.row k) → asks .painter (.rowWrite k x.rowsIssued))) ∧
    (s.active = true → liveOwns s OwnPurpose.isGlyphFetch < 4 →
      ∀ e, s.notices.fetchList.head? = some e → asks .notice (.glyphFetch e)) ∧
    (s.active = false ∨ 4 ≤ liveOwns s OwnPurpose.isGlyphFetch ∨ s.notices.fetchList = [] →
      ownRequest s .notice = none) ∧
    (s.offers.report = none → ownRequest s .report = none) ∧
    (s.offers.report = some .header → asks .report .reportHeader) ∧
    (s.offers.report = some .record → s.reports.queue ≠ [] → asks .report .reportRecord)) ∧
  (∀ (s : State) (x : RecordId),
    let w := s.setup.windows
    (recordAddr s x, fetchShape x) = match x with
      | .showing i => (w.showings + 64 * i.val, 1, 4)
      | .notice i => (w.notices + 64 * i.val, 1, 8)
      | .layout i => (w.layouts + 512 * i.val, 4, 16)
      | .title i => (w.text + 16384 + 32 * i.val, 1, 4)
      | .catalog i => (w.trailers + 16 * i.val, 1, 2)
      | .rotation i => (w.trailers + 1024 + 64 * i.val, 1, 8)) ∧
  (∀ (c : Instr) (s t : State), exec c s = .next t → c ≠ .lrstNRelease → t.resetN = true →
    t = s ∨ (commitChosen s c t ∧ paintChosen s c t ∧ reportChosen s c t)) ∧
  ∀ (s t : State) (p : PanelIx) (k : Nat) (b : Burst), exec .commitFetchIssue s = .next t →
    s.resetN = true → s.active = true → arbiterPick s = some (.own .commit) → (freeOwnTag s).isSome = true →
    ownRequest s .commit = some (.commitFetch (.layout p) k, b) → k < 3 →
    (k = 0 → ∀ f ∈ s.commit.fetches, f.record ≠ .layout p) →
    t.offers.commit.head? = some (.burst (.layout p))

/-- The ten commands that issue an own request (COMMIT_FETCH_ISSUE, JOURNAL_FETCH_ISSUE, WRITE_BACK_ISSUE,
GLYPH_READ_ISSUE, ROW_WRITE_ISSUE, GLYPH_FETCH_ISSUE, REPORT_RECORD_WRITE, REPORT_HEADER_WRITE, SETUP_READ and
BUILD_READ, as `issuedKind` lists them), when the arbiter's choice is a requester whose request is of the command's
kind: the request goes out under the lowest free own tag, its timer starts, the grant count becomes 0 and the requester
the round-robin place (R158, R159, R163); and its requester notes it as issued: a fetched record leaves the commit queue
as FETCHING (R12), the tail fetch is FETCHING (R42), a write-back leaves its queue (R15), and so on. The burst is the
one the requester's rule gives: a record's, a slot's, a glyph's or the Setup Block's bytes for a read; for a write the
part-owned bytes alone of the record as they stand (R15, R34, R39, R145), a row of the paint, or a report record at slot
P (R167, R188). A row of a cell is one write of 64 bytes, every byte enabled: the glyph row's bits from the most
significant bit of its first byte giving foreground or background pixels from left to right, at frame base + (y + r) ×
stride + (x + 16 × cell) × 4 (R101). What each requester asks for, and in what order, is RequestersOffer's. That the
build reads whole blocks of 128 bytes, in table order, is the choice of log 13. -/
def Obligations.OwnRequestIssued : Prop :=
  (∀ (s : State) (c : Instr) (mine : OwnPurpose → Bool) (r : Requester) (p : OwnPurpose) (b : Burst) (m : MemTag),
    issuedKind c = some mine → s.resetN = true → arbiterPick s = some (.own r) → ownRequest s r = some (p, b) →
    mine p = true → freeOwnTag s = some m →
    (∃ t, exec c s = .next t ∧
      t = { s with
        traffic := { s.traffic with
          tags := setAt s.traffic.tags m (some
            { addr := b.addr, isWrite := b.isWrite, beats := b.beats, holder := .own p s.traffic.cycles .live })
          grants := 0, place := r }
        memOut := s.memOut ++ [{ tag := m, burst := b }]
        start := t.start, commit := t.commit, journal := t.journal, painter := t.painter, notices := t.notices
        reports := t.reports, offers := t.offers } ∧
      t.start = (match p with
        | .setupRead k => { s.start with setupIssued := k + 1 }
        | .buildRead k => { s.start with buildIssued := k + 1 }
        | _ => s.start) ∧
      t.commit = (match p with
        | .commitFetch x 0 => { s.commit with
            queue := s.commit.queue.tail, fetch := s.commit.fetch.set x .fetching
            fetches := s.commit.fetches ++ [{ record := x, issued := 1, taken := [] }] }
        | .commitFetch x (k + 1) => { s.commit with
            fetches := s.commit.fetches.map fun f => if f.record = x then { f with issued := k + 2 } else f }
        | .writeBack (.showing i) => { s.commit with
            wbLast := .showings, wbShowings := s.commit.wbShowings.filter fun j => j != i }
        | .writeBack .journal => { s.commit with wbLast := .journal, wbJournal := false }
        | .writeBack (.stream i) => { s.commit with
            wbLast := .streams, wbStreams := s.commit.wbStreams.filter fun j => j != i }
        | _ => s.commit) ∧
      t.journal = (match p with
        | .journalFetch => { s.journal with fetch := .fetching }
        | _ => s.journal) ∧
      t.painter = (match p with
        | .glyphRead k => { s.painter with
            slots := s.painter.slots.map fun x => if x.slot = k then { x with glyphIssued := true } else x }
        | .rowWrite k row => { s.painter with
            slots := s.painter.slots.map fun x => if x.slot = k then { x with rowsIssued := row + 1 } else x }
        | _ => s.painter) ∧
      t.notices = (match p with
        | .glyphFetch _ => { s.notices with fetchList := s.notices.fetchList.tail }
        | _ => s.notices) ∧
      t.reports = (match p with
        | .reportHeader => { s.reports with headerQueued := false }
        | _ => s.reports) ∧
      64 ≤ m.val ∧ s.traffic.tags.get m = none ∧ ∀ n : MemTag, 64 ≤ n.val → n < m →
        (s.traffic.tags.get n).isSome = true) ∧
    match p with
    | .setupRead k => b = readBurst (s.setupBase + 128 * k) 16
    | .buildRead k => k = s.start.buildIssued ∧ ∃ item, buildItem s.start.resume k = some item ∧ b = buildBurst s item
    | .commitFetch x k => b = readBurst (recordAddr s x + 128 * k) (fetchShape x).2
    | .journalFetch => b = readBurst (s.setup.windows.journal + 64 + 16 * s.journal.tail.val) 2
    | .writeBack (.showing i) =>
      let e := s.seats.entries.get i
      b = { isWrite := true, addr := BitVec.ofNat 32 (s.setup.windows.showings + 64 * i.val + 32), beats := 2
            lanes := ([BitVec.ofNat 8 e.phase.code, 0] ++ le16 e.left ++ le16 e.sold ++ le16 e.held ++
              le32 e.changed.toNat ++ [0, 0, 0, 0]).map some }
    | .writeBack .journal =>
      b = { isWrite := true, addr := BitVec.ofNat 32 s.setup.windows.journal, beats := 1
            lanes := [some (BitVec.ofNat 8 s.journal.tail.val), some (BitVec.ofNat 8 s.journal.lap.code),
              none, none, none, none, none, none] }
    | .writeBack (.stream i) =>
      let st := s.trailers.streams.get i
      b.isWrite = true ∧ b.addr = BitVec.ofNat 32 (s.setup.windows.trailers + 2048 + 16 * i.val) ∧ b.beats = 2 ∧
      ((s.setup.streams.get i).enabled = true → b.lanes =
        ([BitVec.ofNat 8 (freeSet st), noneOr255 (presented st), noneOr255 st.current, noneOr255 st.cued] ++
          List.replicate 12 0).map some) ∧
      ((s.setup.streams.get i).enabled = false → b.lanes =
        ([0, 255, 255, 255] ++ List.replicate 12 0).map some)
    | .glyphRead k => ∃ x ∈ s.painter.slots, x.slot = k ∧
        b = readBurst (s.setup.windows.text + 64 * x.target.code.toNat) 8
    | .rowWrite k row => ∃ x ∈ s.painter.slots, x.slot = k ∧ row = x.rowsIssued ∧ b = rowBurst x row
    | .glyphFetch f => ∀ code, (s.notices.cache.get f).fill = .filling code →
        b = readBurst (s.setup.windows.text + 64 * code.toNat) 8
    | .reportRecord => ∃ q, s.reports.queue.head? = some q ∧
        b = { isWrite := true, addr := BitVec.ofNat 32 (s.setup.windows.reports + 64 + 16 * s.reports.p.toNat)
              beats := 2
              lanes := ([BitVec.ofNat 8 q.kind.code] ++ le24 q.time.toNat ++ padTo 4 q.subject ++
                padTo 8 q.detail).map some }
    | .reportHeader =>
        b = { isWrite := true, addr := BitVec.ofNat 32 s.setup.windows.reports, beats := 1
              lanes := [some (BitVec.ofNat 8 s.reports.p.toNat), some (if s.reports.overflow then 1 else 0),
                none, none, none, none, none, none] }) ∧
  -- a row of a glyph (R101)
  ∀ (p : Paint) (r k : Nat), r < 32 → k < 16 →
    (rowBurst p r).isWrite = true ∧ (rowBurst p r).beats = 8 ∧
      (rowBurst p r).lanes = (rowPixels p r).map some ∧ (rowPixels p r).length = 64 ∧
      (rowBurst p r).addr =
        BitVec.ofNat 32 (p.base + (p.y + r) * p.stride + (p.x + 16 * p.ref.cell.val) * 4) ∧
      slice (rowPixels p r) (4 * k) 4 =
        (if (byteAt p.glyph (2 * r + k / 8)).getLsbD (7 - k % 8) then p.fg else p.bg).bytes

/-! ### Responses and timeouts -/

/-- MEMORY_RESPONSE, by what the tag belonged to (R160). A request in use: the memory tag is freed, the response
returned under the controller tag, and the entry freed; an OK first has the commits of its record taken one after
another, in the order of the record, which is ascending (R6, AddressClassesAndCommitBytes); a FAULT, or a record without
items, changes nothing else, and neither does an OK in TRANSPARENT but for the restart word (R17). A request whose entry
a link reset dropped: no response, and the commits are taken on OK (R161). A request whose timer had expired: the
response is dropped, and no commit taken. A tag that is not reserved: nothing. The same holds of the commands that bring
the answer to an own request: for one that has timed out (R159), and for one that a warm restart or TRANSPARENT only
waits for (R17, R108, R122, R171, R174, R181), the tag is freed and the response dropped, and nothing else changes; at a
tag that is not reserved they do nothing. -/
def Obligations.ResponseReturned : Prop :=
  (∀ (s : State) (m : MemTag) (u : TagUse) (e : InFlight) (st : Status) (data : List Byte),
    answeredInUse s m u e st data →
    let taken : State := { s with
      traffic := { s.traffic with tags := setAt s.traffic.tags m none }
      ctlOut := s.ctlOut ++ [{ tag := ctlTagOf m, status := st, data := returnedData s.part e.plan st data }] }
    let done := if st = .ok then e.commits.foldl takeItem taken else taken
    ∃ t, exec (.memoryResponse m st data) s = .next t ∧
      t = { done with
        traffic := { done.traffic with inflight := setAt done.traffic.inflight (ctlTagOf m) none }
        offers := t.offers } ∧
      t.ctlOut = taken.ctlOut ∧ t.memOut = s.memOut ∧
      (st = .fault ∨ e.commits = [] ∨ (s.part = .transparent ∧ ∀ v, .restart v ∉ e.commits) →
        onlyReturned s t m ∧
          t = { s with traffic := t.traffic, ctlOut := taken.ctlOut, offers := t.offers })) ∧
  (∀ (s : State) (m : MemTag) (u : TagUse) (st : Status) (data : List Byte),
    s.resetN = true → s.traffic.tags.get m = some u → answerWf u st data = true →
    let freed : State := { s with traffic := { s.traffic with tags := setAt s.traffic.tags m none } }
    (∀ commits, u.holder = .afterReset commits →
      ∃ t, exec (.memoryResponse m st data) s = .next t ∧ t.ctlOut = s.ctlOut ∧
        t = { (if st = .ok then commits.foldl takeItem freed else freed) with offers := t.offers }) ∧
    (u.holder = .timedOut →
      ∃ t, exec (.memoryResponse m st data) s = .next t ∧ t = { freed with offers := t.offers })) ∧
  (∀ (s : State) (m : MemTag) (st : Status) (data : List Byte), s.traffic.tags.get m = none →
    exec (.memoryResponse m st data) s = .next s ∧ ∀ p, exec (ownAnswer m st data p) s = .next s) ∧
  -- an own request that has timed out, or whose completion is discarded
  ∀ (s : State) (m : MemTag) (u : TagUse) (p : OwnPurpose) (started : Nat) (os : OwnStatus) (st : Status)
    (data : List Byte),
    s.resetN = true → s.traffic.tags.get m = some u → u.holder = .own p started os → os ≠ .live →
    answerWf u st data = true → (p.isWrite = true → data = []) →
    ∃ t, exec (ownAnswer m st data p) s = .next t ∧
      t = { s with traffic := { s.traffic with tags := setAt s.traffic.tags m none }, offers := t.offers }

/-- An OK response to a write that covers a record's revision byte, in RUNNING or QUIET: a new value is the
last-accepted one from now on and commits the record by its fetch state; the last-accepted value commits nothing (R7,
R12). The response goes back under the controller tag, as it does in the five statements that follow (R160). -/
def Obligations.RevisionCommitted : Prop :=
  ∀ (s : State) (m : MemTag) (u : TagUse) (e : InFlight) (data : List Byte) (r : RecordId) (v : Byte),
    answeredInUse s m u e .ok data → e.commits = [.revision r v] → s.active = true →
    ∃ t, exec (.memoryResponse m .ok data) s = .next t ∧ onlyReturned s t m ∧
      t = { s with traffic := t.traffic, ctlOut := okReturned s m e data, commit := t.commit, offers := t.offers } ∧
      (s.commit.revs.get r = v → t.commit = s.commit) ∧
      (s.commit.revs.get r ≠ v →
        t.commit.revs.get r = v ∧ (∀ q, q ≠ r → t.commit.revs.get q = s.commit.revs.get q ∧
          t.commit.fetch.get q = s.commit.fetch.get q) ∧
        (s.commit.fetch.get r = .idle →
          t.commit.fetch.get r = .queued ∧ t.commit.queue = s.commit.queue ++ [r]) ∧
        (s.commit.fetch.get r = .queued →
          t.commit.fetch.get r = .queued ∧ t.commit.queue = s.commit.queue) ∧
        (s.commit.fetch.get r = .fetching ∨ s.commit.fetch.get r = .stale →
          t.commit.fetch.get r = .stale ∧ t.commit.queue = s.commit.queue))

/-- An OK response to a write of a lap marker, in RUNNING or QUIET (R8, R40, R41): the expected marker sets the slot's
mark; on a marked slot it does nothing, but for the tail slot under a FETCHING tail fetch, which becomes FETCHING_STALE;
the current lap behind the tail is reported LATE_RECORD; any other value does nothing. When a mark is set, the gap timer
stops if the gap condition is false, keeps running if it ran, and starts if the condition has become true (R46). -/
def Obligations.JournalMarkerTaken : Prop :=
  ∀ (s : State) (m : MemTag) (u : TagUse) (e : InFlight) (data : List Byte) (i : JournalIx) (v : Byte),
    answeredInUse s m u e .ok data → e.commits = [.lap i v] → s.active = true →
    ∃ t, exec (.memoryResponse m .ok data) s = .next t ∧ onlyReturned s t m ∧
      t = { s with
        traffic := t.traffic, ctlOut := okReturned s m e data, journal := t.journal, reports := t.reports
        offers := t.offers } ∧
      t.journal.tail = s.journal.tail ∧ t.journal.lap = s.journal.lap ∧
      (v.toNat = (expectedLap s.journal i).code →
        t.journal.marks.get i = true ∧ (∀ k, k ≠ i → t.journal.marks.get k = s.journal.marks.get k) ∧
        t.reports = s.reports ∧
        (s.journal.marks.get i = true → t.journal = { s.journal with
          fetch := if i = s.journal.tail ∧ s.journal.fetch = .fetching then .stale else s.journal.fetch }) ∧
        (s.journal.marks.get i = false → t.journal.fetch = s.journal.fetch ∧
          (t.journal.marks.get s.journal.tail = true → t.journal.gapStart = none) ∧
          (t.journal.marks.get s.journal.tail = false → t.journal.gapStart = some
            (match s.journal.gapStart with
              | some started => started
              | none => s.clock.ticks)))) ∧
      (v.toNat = s.journal.lap.code → i < s.journal.tail → t.journal = s.journal ∧
        (acceptsReports s 1 → t.reports.queue = s.reports.queue ++
          [report .lateRecord s.clock.now (le8 i.val) [v]])) ∧
      (v.toNat ≠ (expectedLap s.journal i).code → v.toNat ≠ s.journal.lap.code ∨ s.journal.tail ≤ i →
        t.journal = s.journal ∧ t.reports = s.reports)

/-- An OK response to a write of the consumer index or of the overflow byte, in RUNNING or QUIET (R11, R168): the copy C
is the value mod 64; a 0 clears the overflow flag and marks the report header, another value does nothing. ATTN_N then
is low in QUIET, and in RUNNING while P differs from C (R170). That a 0 marks the header even when the flag was clear is
the reading of log 29. -/
def Obligations.ReportFieldsWritten : Prop :=
  ∀ (s : State) (m : MemTag) (u : TagUse) (e : InFlight) (data : List Byte) (v : Byte),
    answeredInUse s m u e .ok data → s.active = true →
    (e.commits = [.consumer v] → ∃ t, exec (.memoryResponse m .ok data) s = .next t ∧ onlyReturned s t m ∧
      t = { s with
        traffic := t.traffic, ctlOut := okReturned s m e data, offers := t.offers
        reports := { s.reports with c := BitVec.ofNat 6 (v.toNat % 64) } } ∧
      (s.part = .running → (t.attnN = true ↔ s.reports.p.toNat = v.toNat % 64)) ∧
      (s.part = .quiet → t.attnN = false)) ∧
    (e.commits = [.overflow v] → ∃ t, exec (.memoryResponse m .ok data) s = .next t ∧ onlyReturned s t m ∧
      t = { s with
        traffic := t.traffic, ctlOut := okReturned s m e data, offers := t.offers
        reports := if v = 0 then { s.reports with overflow := false, headerQueued := true } else s.reports } ∧
      t.attnN = s.attnN)

/-- An OK response to a write of the restart word (R11, R180, R181): the last-seen value changes nothing. A new one is
seen and begins a warm restart: RESTARTING at stage 1, no own request awaited by its owner any more, the withheld
seconds and the pending time set cleared (R75), the gap and idle timers stopped (R46, R138), and every panel IDLE with
no latch (R125, R138). The latches are dropped, so every latch count is 0, and a COMPLETE slot that is not newest
becomes FREE (R141, R154); no cache entry's count is lowered (R139). That they go at the entry, and not at stage 2, is
the reading of log 50. The controller's traffic goes on. While a restart still waits in stage 1 nothing but the
last-seen value changes. -/
def Obligations.RestartRequested : Prop :=
  ∀ (s : State) (m : MemTag) (u : TagUse) (e : InFlight) (data : List Byte) (v : Byte),
    answeredInUse s m u e .ok data → e.commits = [.restart v] → s.part ≠ .loading →
    ∃ t, exec (.memoryResponse m .ok data) s = .next t ∧ t.traffic.tags.get m = none ∧
      t.traffic = { s.traffic with
        inflight := setAt s.traffic.inflight (ctlTagOf m) none, tags := t.traffic.tags } ∧
      (s.commit.lastRestart = v →
        t = { s with traffic := t.traffic, ctlOut := okReturned s m e data, offers := t.offers } ∧ onlyReturned s t m) ∧
      (s.commit.lastRestart ≠ v →
        (s.part = .restarting → s.start.stage = .wait → onlyReturned s t m ∧
          t = { s with
            traffic := t.traffic, ctlOut := okReturned s m e data, commit := { s.commit with lastRestart := v }
            offers := t.offers }) ∧
        (s.part ≠ .restarting ∨ s.start.stage ≠ .wait →
          t = { s with
            traffic := t.traffic, ctlOut := okReturned s m e data, commit := { s.commit with lastRestart := v }
            part := .restarting
            start := { s.start with stage := .wait }
            clock := { s.clock with withheld := 0, pendingSet := none }
            journal := { s.journal with gapStart := none }
            trailers := { s.trailers with streams := t.trailers.streams }
            scan := t.scan, offers := t.offers } ∧
          (∀ q, t.scan.get q =
            { s.scan.get q with scanning := false, idleStart := none, banner := none, trailer := none }) ∧
          (∀ i,
            let x := s.trailers.streams.get i
            let y := t.trailers.streams.get i
            y = { x with slots := y.slots } ∧ ∀ k,
              ((x.slots.get k).state = .complete → (x.slots.get k).newest = false → y.slots.get k = .free) ∧
              ((x.slots.get k).state ≠ .complete ∨ (x.slots.get k).newest = true →
                y.slots.get k = { x.slots.get k with latches := 0 })) ∧
          (∀ n w p started, t.traffic.tags.get n = some w → w.holder ≠ .own p started .live) ∧
          ∀ n w, n ≠ m → s.traffic.tags.get n = some w →
            ∃ h, t.traffic.tags.get n = some { w with holder := h } ∧
              ((∀ p started, w.holder ≠ .own p started .live) → h = w.holder) ∧
              ∀ p started, w.holder = .own p started .live → h = .own p started .dropped))

/-- An OK response to a write of a frame tag in BUILDING, RUNNING, RESTARTING or QUIET (R10, R143). A whole one: the
slot is COMPLETE and newest with the tag's item, and the slot that was newest gives the place up, to be FREE if no pass
latches it. In RUNNING and QUIET the item is counted (R144): one that is current with frames remaining lowers their
number; else the cued item becomes current with its catalog entry's frame count less one; any other changes nothing. A
stream that then has a current item, 48 frames or fewer remaining and no cue is cued by a pick, with its report (R150);
in the other states nothing is counted or cued (R152). The stream's status word is marked for write-back exactly when
its free set or its presented slot has changed, its cued item has become current, or a cue is made (R143, R144, R150). A
pick takes the first eligible phase of the stream's rotation table from the pointer on, or the house reel when none of
the 32 is eligible (R148, R149). A write that does not enable the whole tag is reported PARTIAL_WRITE and does nothing
else. -/
def Obligations.FrameTagCommitted : Prop :=
  (∀ (s : State) (m : MemTag) (u : TagUse) (e : InFlight) (data : List Byte) (i : StreamIx) (k : FrameIx) (a : Nat)
    (bs : List Byte),
    answeredInUse s m u e .ok data → e.commits = [.tag i k a (some bs)] → s.part ≠ .loading →
    s.part ≠ .transparent → (s.setup.streams.get i).enabled = true →
    ∃ t, exec (.memoryResponse m .ok data) s = .next t ∧ onlyReturned s t m ∧
      t = { s with
        traffic := t.traffic, ctlOut := okReturned s m e data, trailers := t.trailers
        commit := { s.commit with wbStreams := t.commit.wbStreams }
        reports := t.reports, offers := t.offers } ∧
      t.trailers.catalog = s.trailers.catalog ∧ t.trailers.rotation = s.trailers.rotation ∧
      (∀ j, j ≠ i → t.trailers.streams.get j = s.trailers.streams.get j) ∧
      (t.trailers.streams.get i).slots.get k =
        { state := .complete, newest := true, latches := ((s.trailers.streams.get i).slots.get k).latches
          item := indexOrNone 48 (u8 bs 0) } ∧
      (∀ l, l ≠ k →
        let x := (s.trailers.streams.get i).slots.get l
        let y := (t.trailers.streams.get i).slots.get l
        (x.newest = false → y = x) ∧ (x.newest = true → 0 < x.latches → y = { x with newest := false }) ∧
          (x.newest = true → x.latches = 0 → y = .free)) ∧
      (let x := s.trailers.streams.get i
       let y := t.trailers.streams.get i
       let plays := fun c => indexOrNone 48 (u8 bs 0) = some c ∧ x.current = some c ∧ 0 < x.remaining
       let starts := fun c => indexOrNone 48 (u8 bs 0) = some c ∧ ¬plays c ∧ x.cued = some c
       let open' := y.current ≠ none ∧ y.remaining ≤ 48 ∧ (if ∃ c, starts c then none else x.cued) = none
       statusMarked s t i (s.active = true ∧ ((∃ c, starts c) ∨ open')) ∧
       (s.active = false → t.reports = s.reports ∧
         y.current = x.current ∧ y.remaining = x.remaining ∧ y.cued = x.cued ∧ y.pointer = x.pointer) ∧
       (s.active = true →
         (∀ c, plays c → y.current = x.current ∧ y.remaining = x.remaining - 1) ∧
         (∀ c, starts c → y.current = some c ∧ y.remaining = (s.trailers.catalog.get c).frames - 1) ∧
         ((∀ c, ¬plays c ∧ ¬starts c) → y.current = x.current ∧ y.remaining = x.remaining) ∧
         (let cue := if ∃ c, starts c then none else x.cued
          (y.current = none ∨ 48 < y.remaining ∨ cue ≠ none →
            y.cued = cue ∧ y.pointer = x.pointer ∧ t.reports = s.reports) ∧
          (y.current ≠ none → y.remaining ≤ 48 → cue = none →
            y.cued = some (pick s i).item ∧ y.pointer = (pick s i).pointer ∧
            (acceptsReports s 1 → t.reports.queue = s.reports.queue ++ [report .trailerCue s.clock.now (le8 i.val)
              (le8 (pick s i).item.val ++ [noneOr255 (pick s i).phase])])))))) ∧
  (∀ (s : State) (m : MemTag) (u : TagUse) (e : InFlight) (data : List Byte) (i : StreamIx) (k : FrameIx) (a : Nat),
    answeredInUse s m u e .ok data → e.commits = [.tag i k a none] → s.part ≠ .loading → s.part ≠ .transparent →
    ∃ t, exec (.memoryResponse m .ok data) s = .next t ∧ onlyReturned s t m ∧
      t = { s with traffic := t.traffic, ctlOut := okReturned s m e data, reports := t.reports, offers := t.offers } ∧
      (acceptsReports s 1 →
        t.reports.queue = s.reports.queue ++ [report .partialWrite s.clock.now (le32 a) (le8 0)])) ∧
  -- a pick (R148, R149): the first eligible phase from the pointer, and the house reel when none of the 32 is
  ∀ (s : State) (i : StreamIx),
    let x := s.trailers.streams.get i
    let phase := fun (n : Nat) => x.pointer + Fin.ofNat 32 n
    let good := fun (c : CatalogIx) => c = 0 ∨ ((s.trailers.catalog.get c).enabled = true ∧
      ∀ l, (s.trailers.catalog.get c).linked = some l → 0 < s.seats.sellable.get l)
    let eligible := fun (n : Nat) (c : CatalogIx) =>
      (s.trailers.rotation.get i).get (phase n) = some c ∧ good c
    (∀ n c, n < 32 → eligible n c → (∀ j d, j < n → ¬eligible j d) →
      pick s i = { item := c, phase := some (phase n), pointer := phase (n + 1) }) ∧
    ((∀ n c, n < 32 → ¬eligible n c) → pick s i = { item := 0, phase := none, pointer := phase 1 })

/-- An OK response to a time-set write with a changed revision. In RUNNING and QUIET (R71, R73, R74) lobby seconds take
the value and the subsecond count 0. A jump of less than 2^19 fires the entries up to it, and leaves the others as they
are; a longer one is backward: nothing fires, and each entry's distance from the new time is the smaller of its old
distance plus the jump back and 2^19. The roster of every panel is computed anew, its roster lines are assigned from it
and show their content, every CLOCK line shows the new time as HH:MM, and no other line changes (R71, R83, R84, R90). In
BUILDING and RESTARTING the value is kept as the pending time set, and the seconds withheld so far are lost (R72). In
both, a completed second that waits to be taken is dropped: the choice of log 4. TIME_SET is reported with the old time,
the new time and the number fired (R71); that the record's own time field is the new time is the choice of log 54. A
write that does not enable the four value bytes is reported PARTIAL_WRITE, sets nothing and is not seen (R11; that the
report names the value's address is the reading of log 21). A write with the last-seen revision changes nothing (R11).
-/
def Obligations.TimeSetTaken : Prop :=
  (∀ (s : State) (m : MemTag) (u : TagUse) (e : InFlight) (data : List Byte) (rev : Byte) (bs : List Byte),
    answeredInUse s m u e .ok data → e.commits = [.timeSet rev (some bs)] → s.active = true →
    s.commit.lastTimeSet ≠ rev →
    ∃ t, exec (.memoryResponse m .ok data) s = .next t ∧ onlyReturned s t m ∧
      t = { s with
        traffic := t.traffic, ctlOut := okReturned s m e data, clock := t.clock, due := t.due, roster := t.roster
        painter := t.painter, reports := t.reports, commit := { s.commit with lastTimeSet := rev }
        offers := t.offers } ∧
      t.clock = { s.clock with now := BitVec.ofNat 20 (u32 bs 0), sub := 0, secondsDue := 0 } ∧
      let d := distance s.clock.now t.clock.now
      (d < 524288 →
        t.due.list = s.due.list.filter (fun x => d < distance s.clock.now x.time) ∧
        t.due.batch = s.due.batch ++ s.due.list.filter (fun x => distance s.clock.now x.time ≤ d) ∧
        ∀ x ∈ t.due.list, distance t.clock.now x.time = distance s.clock.now x.time - d) ∧
      (524288 ≤ d → t.due.batch = s.due.batch ∧
        t.due.list.map (fun x => (x.key, x.target, distance t.clock.now x.time)) =
          s.due.list.map (fun x => (x.key, x.target, min (distance s.clock.now x.time + (1048576 - d)) 524288))) ∧
      (acceptsReports s 1 → t.reports.queue = s.reports.queue ++
        [report .timeSet t.clock.now [] (le24 s.clock.now.toNat ++ le24 t.clock.now.toNat ++
          le16 (if d < 524288 then s.due.list.countP (fun x => distance s.clock.now x.time ≤ d) else 0))]) ∧
      boardsFollow s t (fun _ => True) (fun kind => rosterKind kind ∨ kind = .clock) ∧ clocksShow t) ∧
  (∀ (s : State) (m : MemTag) (u : TagUse) (e : InFlight) (data : List Byte) (rev : Byte) (bs : List Byte),
    answeredInUse s m u e .ok data → e.commits = [.timeSet rev (some bs)] → s.rebuilding = true →
    s.commit.lastTimeSet ≠ rev →
    ∃ t, exec (.memoryResponse m .ok data) s = .next t ∧ onlyReturned s t m ∧
      t = { s with
        traffic := t.traffic, ctlOut := okReturned s m e data, commit := { s.commit with lastTimeSet := rev }
        offers := t.offers
        clock := { s.clock with
          pendingSet := some (BitVec.ofNat 20 (u32 bs 0)), sub := 0, secondsDue := 0, withheld := 0 } }) ∧
  (∀ (s : State) (m : MemTag) (u : TagUse) (e : InFlight) (data : List Byte) (rev : Byte),
    answeredInUse s m u e .ok data → e.commits = [.timeSet rev none] → s.active = true ∨ s.rebuilding = true →
    s.commit.lastTimeSet ≠ rev →
    ∃ t, exec (.memoryResponse m .ok data) s = .next t ∧ onlyReturned s t m ∧
      t = { s with traffic := t.traffic, ctlOut := okReturned s m e data, reports := t.reports, offers := t.offers } ∧
      (acceptsReports s 1 → t.reports.queue = s.reports.queue ++
        [report .partialWrite s.clock.now (le32 (s.setupBase + 3976)) (le8 1)])) ∧
  ∀ (s : State) (m : MemTag) (u : TagUse) (e : InFlight) (data : List Byte) (rev : Byte) (value : Option (List Byte)),
    answeredInUse s m u e .ok data → e.commits = [.timeSet rev value] → s.commit.lastTimeSet = rev →
    ∃ t, exec (.memoryResponse m .ok data) s = .next t ∧ onlyReturned s t m ∧
      t = { s with traffic := t.traffic, ctlOut := okReturned s m e data, offers := t.offers }

/-- The plan of a read of a panel's pixel columns (R130): OVERLAY when one of its pixels lies in the latched banner
band, with each such pixel's glyph bit: bit k of glyph row g, counted from the most significant, of the 16 bits formed
by bytes 2g and 2g + 1 of the HELD entry's mask, byte 2g first (R131); otherwise REDIRECT when it lies in the latched
trailer region, to the same place of the latched slot (R134); otherwise NONE. An OK response to an OVERLAY read is
blended pixel by pixel: inside the band a glyph bit of 1 gives the foreground pixel, and a bit of 0 each channel shifted
right by the dim shift plus the background's, saturated at 255, with the fourth byte kept; outside it the pixel passes
(R131, R132). A FAULT, every response in TRANSPARENT, and the response to a read of plan NONE or REDIRECT, pass as
memory gave them (R133, R138, R160). -/
def Obligations.OverlayBlended : Prop :=
  (∀ (s : State) (p : PanelIx) (row off beats : Nat),
    let x := s.scan.get p
    let inside := fun (b : BannerLatch) (col : Nat) => b.byRow ≤ row ∧ row < b.byRow + 32 ∧ b.bx ≤ col ∧
      col < b.bx + 16 * b.entries.length ∧ col < (s.setup.panels.get p).width
    let covered := fun (b : BannerLatch) => ∃ i, i < 2 * beats ∧ inside b (off / 4 + i)
    (∀ b, x.banner = some b → covered b → ∃ o, planRead s p row off beats = .overlay o ∧
      o.fg = b.fg ∧ o.bg = b.bg ∧ o.dim = b.dim ∧ o.bits.length = 2 * beats ∧
      ∀ i, i < 2 * beats →
        (¬inside b (off / 4 + i) → o.bits[i]? = some none) ∧
        (inside b (off / 4 + i) → ∀ e code mask, b.entries[(off / 4 + i - b.bx) / 16]? = some e →
          (s.notices.cache.get e).fill = .held code mask →
          let k := (off / 4 + i - b.bx) % 16
          o.bits[i]? = some (some ((byteAt mask (2 * (row - b.byRow) + k / 8)).getLsbD (7 - k % 8))))) ∧
    ((∀ b, x.banner = some b → ¬covered b) →
      (∀ t, x.trailer = some t → t.y0 ≤ row → row < t.y0 + t.height → t.x0 * 4 ≤ off →
        off < (t.x0 + t.width) * 4 → planRead s p row off beats =
          .redirect (BitVec.ofNat 32 (t.base + (row - t.y0) * t.stride + (off - t.x0 * 4)))) ∧
      ((∀ t, x.trailer = some t → row < t.y0 ∨ t.y0 + t.height ≤ row ∨ off < t.x0 * 4 ∨
        (t.x0 + t.width) * 4 ≤ off) → planRead s p row off beats = .none))) ∧
  (∀ (o : Overlay) (data : List Byte), data.length = 4 * o.bits.length →
    ∀ i bit, o.bits[i]? = some bit →
      let d := fun j => byteAt data (4 * i + j)
      slice (blend o o.bits data) (4 * i) 4 =
        match bit with
        | none => [d 0, d 1, d 2, d 3]
        | some true => [o.fg.b, o.fg.g, o.fg.r, o.fg.a]
        | some false =>
          [BitVec.ofNat 8 (min 255 ((d 0).toNat / 2 ^ o.dim + o.bg.b.toNat)),
           BitVec.ofNat 8 (min 255 ((d 1).toNat / 2 ^ o.dim + o.bg.g.toNat)),
           BitVec.ofNat 8 (min 255 ((d 2).toNat / 2 ^ o.dim + o.bg.r.toNat)), d 3]) ∧
  ∀ (part : PartState) (plan : Plan) (o : Overlay) (st : Status) (data : List Byte),
    (plan = .overlay o → st = .ok → part ≠ .transparent →
      returnedData part plan st data = blend o o.bits data) ∧
    (st = .fault ∨ part = .transparent ∨ plan = .none ∨ (∃ a, plan = .redirect a) →
      returnedData part plan st data = data)

/-- HOST_TIMEOUT after the response timer's length: the request is answered FAULT and reported, and its entry freed. A
queued request leaves the queue; a forwarded one keeps its memory tag and its block, without its commits. The length is
the whole part of 2^32 / (250 × step), and 2,000 cycles while no step is in force (R159); that the step in force at the
expiry counts is the choice of log 30. -/
def Obligations.ControllerRequestTimedOut : Prop :=
  (∀ s : State, (∀ step, s.clock.step = some step → s.timerLength = 2 ^ 32 / (250 * step.toNat)) ∧
    (s.clock.step = none → s.timerLength = 2000)) ∧
  ∀ (s : State) (tag : CtlTag) (e : InFlight),
    s.resetN = true → s.traffic.inflight.get tag = some e → s.timerLength ≤ s.traffic.cycles - e.started →
    ∃ t r, exec (.hostTimeout tag) s = .next t ∧
      t = { s with
        ctlOut := s.ctlOut ++ [r], reports := t.reports, free := t.free, offers := t.offers
        traffic := t.traffic } ∧
      r.tag = tag ∧ r.status = .fault ∧
      (acceptsReports s 1 → t.reports.queue = s.reports.queue ++ [report .hostTimeout s.clock.now (le8 tag.val)
        (le32 e.burst.addr.toNat ++ le8 (kindCode e.burst.isWrite) ++ le8 (if e.stage = .forwarded then 1 else 0))]) ∧
      (e.stage = .queued → t.traffic = { s.traffic with
        inflight := setAt s.traffic.inflight tag none, queue := s.traffic.queue.filter fun k => k != tag }) ∧
      (e.stage = .forwarded → ∀ u, s.traffic.tags.get (memTagOf tag) = some u → t.traffic = { s.traffic with
        inflight := setAt s.traffic.inflight tag none
        tags := setAt s.traffic.tags (memTagOf tag) (some { u with holder := .timedOut }) })

/-- OWN_REQUEST_TIMEOUT after the response timer's length, which is the whole part of 2^32 / (250 × step), and 2,000
cycles while no step is in force, as for the Setup Block's own reads at power-on (R159; the step in force at the expiry
counts by log 30): whatever its requester then does, the request's memory tag stays reserved with its address, and the
controller port is not touched (R159). One that a warm restart or TRANSPARENT only waits for makes no further change
(R171). A live one counts as faulted at its requester: in every part state and every containment mode its expiry does
what memory's FAULT answer to it does, but for the reserved tag (R171, R172), so that the statements of those answers
say it too. In RUNNING and QUIET under mode REPORT the part state stays, and there is a MEMORY_FAULT, whose action byte
in QUIET is already contained by the reading of log 27, and for a write-back nothing more; a record fetch under way as
FETCHING, of one burst, ends with the record IDLE (R13); the tail slot is skipped with JOURNAL_BAD, reason FETCH_FAULT,
its showing byte a free value (R43, log 15); a paint ends at its glyph read or notes the row (R104); a banner glyph is
HELD with a mask of zeros (R120). A report write sets the overflow flag without a MEMORY_FAULT (R169), and the faulted
record leaves the queue. -/
def Obligations.OwnRequestTimedOut : Prop :=
  (∀ s : State, (∀ step, s.clock.step = some step → s.timerLength = 2 ^ 32 / (250 * step.toNat)) ∧
    (s.clock.step = none → s.timerLength = 2000)) ∧
  (∀ (s : State) (m : MemTag) (u : TagUse) (p : OwnPurpose) (started : Nat) (st : OwnStatus),
    s.resetN = true → s.traffic.tags.get m = some u → u.holder = .own p started st → st ≠ .timedOut →
    s.timerLength ≤ s.traffic.cycles - started →
    ∃ t, exec (.ownRequestTimeout m) s = .next t ∧
      t.traffic.tags.get m = some { u with holder := .own p started .timedOut } ∧
      t.memOut = s.memOut ∧ t.ctlOut = s.ctlOut ∧ t.traffic.queue = s.traffic.queue ∧
      (st = .dropped → t = { s with traffic := t.traffic, offers := t.offers })) ∧
  -- in every part state and every containment mode
  (∀ (s : State) (m : MemTag) (u : TagUse) (p : OwnPurpose) (started : Nat),
    s.resetN = true → s.traffic.tags.get m = some u → u.holder = .own p started .live →
    s.timerLength ≤ s.traffic.cycles - started →
    ∃ t answered, exec (.ownRequestTimeout m) s = .next t ∧ exec (faultAnswer m p) s = .next answered ∧
      t = { answered with
        traffic := { answered.traffic with
          tags := setAt answered.traffic.tags m (some { u with holder := .own p started .timedOut }) }
        offers := t.offers }) ∧
  ∀ (s : State) (m : MemTag) (u : TagUse) (p : OwnPurpose) (started : Nat),
    s.resetN = true → s.traffic.tags.get m = some u → u.holder = .own p started .live →
    s.timerLength ≤ s.traffic.cycles - started → s.active = true → s.setup.mode = .report →
    ∃ t, exec (.ownRequestTimeout m) s = .next t ∧ t.part = s.part ∧
      t.traffic = { s.traffic with
        tags := setAt s.traffic.tags m (some { u with holder := .own p started .timedOut }) } ∧
      (let fault := report .memoryFault s.clock.now (le8 p.requester.code) (le32 u.addr.toNat ++
         le8 (classify s u.addr.toNat).code ++ le8 (kindCode u.isWrite) ++ le8 (if s.part = .quiet then 3 else 0))
       match p with
       | .writeBack _ => u.isWrite = true →
         t = { s with traffic := t.traffic, reports := t.reports, offers := t.offers } ∧
         (acceptsReports s 1 → t.reports.queue = s.reports.queue ++ [fault])
       | .journalFetch => u.isWrite = false →
         t = { s with
           traffic := t.traffic, journal := t.journal, commit := { s.commit with wbJournal := true }
           reports := t.reports, free := t.free, offers := t.offers } ∧
         t.journal.tail.val = (s.journal.tail.val + 1) % 64 ∧ t.journal.fetch = .none ∧
         (acceptsReports s 2 → ∃ x, t.reports.queue = s.reports.queue ++
           [fault, report .journalBad s.clock.now (le8 s.journal.tail.val ++ [x]) [5]])
       | .glyphRead k => ∀ x, s.painter.slots = [x] → x.slot = k → x.fault = none → u.isWrite = false →
         t = { s with
           traffic := t.traffic, reports := t.reports, offers := t.offers
           painter := { s.painter with slots := [{ x with fault := some .glyph, stage := .ended }] } } ∧
         (acceptsReports s 1 → t.reports.queue = s.reports.queue ++ [fault])
       | .glyphFetch f => ∀ code, (s.notices.cache.get f).fill = .filling code → 0 < (s.notices.cache.get f).refs →
         u.isWrite = false →
         t = { s with traffic := t.traffic, reports := t.reports, notices := t.notices, offers := t.offers } ∧
         t.notices.cache = setAt s.notices.cache f
           { s.notices.cache.get f with fill := .held code (List.replicate 64 0) } ∧
         (acceptsReports s 2 → t.reports.queue = s.reports.queue ++
           [fault, report .glyphFault s.clock.now [code] (le8 f.val)])
       | .reportRecord => t = { s with
           traffic := t.traffic, offers := t.offers
           reports := { s.reports with
             queue := s.reports.queue.tail, overflow := true
             headerQueued := s.reports.headerQueued || !s.reports.overflow } }
       | .reportHeader => t = { s with
           traffic := t.traffic, offers := t.offers
           reports := { s.reports with
             overflow := true, headerQueued := s.reports.headerQueued || !s.reports.overflow } }
       | .commitFetch r k => ∀ f, (fetchShape r).1 = 1 → k = 0 →
         s.commit.fetches.find? (fun x => x.record == r) = some f → f.record = r → f.taken = [] →
         s.commit.fetch.get r = .fetching → u.isWrite = false → u.addr = BitVec.ofNat 32 (recordAddr s r) →
         t = { s with
           traffic := t.traffic, reports := t.reports, offers := t.offers
           commit := { s.commit with
             fetches := s.commit.fetches.filter fun x => x.record != r
             fetch := s.commit.fetch.set r .idle } } ∧
         (acceptsReports s 1 → t.reports.queue = s.reports.queue ++ [fault])
       | .rowWrite k row => ∀ x, s.painter.slots = [x] → x.slot = k → x.fault = none → u.isWrite = true →
         t = { s with
           traffic := t.traffic, reports := t.reports, offers := t.offers
           painter := { s.painter with slots :=
             [{ x with
                 fault := some (.row row), rowsDone := x.rowsDone + 1
                 stage := if x.rowsDone + 1 = x.rowsIssued ∧ (x.rowsIssued = 32 ∨ x.interrupted = true) then .ended
                   else x.stage }] } } ∧
         (acceptsReports s 1 → t.reports.queue = s.reports.queue ++ [fault])
       | .setupRead _ => t = { s with traffic := t.traffic, offers := t.offers }
       | .buildRead _ => t = { s with traffic := t.traffic, offers := t.offers })

/-! ### Lobby time -/

/-- LOBBY_SECOND takes a completed second from those that wait (secondsDue, the model's choice: log 4). In RUNNING and
QUIET lobby seconds advance, the entries that are due then leave the list as a batch behind what is left of an earlier
one, and boards change only at a multiple of 60, when every CLOCK line of every panel shows the new minute and no other
target changes; in TRANSPARENT lobby seconds alone advance; in BUILDING and RESTARTING the
second is withheld, up to 255 (R62, R63, R68, R70). -/
def Obligations.SecondTaken : Prop :=
  ∀ s : State, s.resetN = true → 0 < s.clock.secondsDue →
    ∃ t, exec .lobbySecond s = .next t ∧
      (s.active = true →
        t = { s with
          clock := { s.clock with now := s.clock.now + 1, secondsDue := s.clock.secondsDue - 1 }
          due := { list := s.due.list.filter fun e => e.time ≠ s.clock.now + 1
                   batch := s.due.batch ++ s.due.list.filter fun e => e.time = s.clock.now + 1 }
          roster := t.roster, painter := t.painter, offers := t.offers } ∧
        ((s.clock.now + 1).toNat % 60 ≠ 0 → t.roster = s.roster ∧ t.painter = s.painter) ∧
        ((s.clock.now + 1).toNat % 60 = 0 →
          let minute := (s.setup.origin + (s.clock.now + 1).toNat / 60) % 1440
          t.roster = { s.roster with targets := t.roster.targets } ∧
          (∀ r : CellRef,
            let ln := s.line r.panel r.line
            (ln.kind = .clock → ∀ code,
              [48 + minute / 600, 48 + minute / 60 % 10, 58, 48 + minute % 60 / 10, 48 + minute % 10][r.cell.val]? =
                some code →
              cellAt t.roster.targets r = { code := BitVec.ofNat 8 code, pair := ln.normal }) ∧
            (ln.kind ≠ .clock ∨ 5 ≤ r.cell.val → cellAt t.roster.targets r = cellAt s.roster.targets r)) ∧
          offeredByTarget s t fun r => cellAt t.roster.targets r ≠ cellAt s.roster.targets r)) ∧
      (s.part = .transparent → t = { s with
        clock := { s.clock with now := s.clock.now + 1, secondsDue := s.clock.secondsDue - 1 }
        offers := t.offers }) ∧
      (s.rebuilding = true → t = { s with
        clock := { s.clock with
          withheld := min 255 (s.clock.withheld + 1), secondsDue := s.clock.secondsDue - 1 }
        offers := t.offers })

/-- R64: distance, pending and passed. -/
def Obligations.DistanceAndPassing : Prop :=
  ∀ now T : LobbyTime,
    (distance now T : Int) = ((T.toNat : Int) - now.toNat) % 1048576 ∧
    (passed now T = true ↔ distance now T = 0 ∨ 524288 < distance now T) ∧
    (passed now T = false ↔ 1 ≤ distance now T ∧ distance now T ≤ 524288) ∧
    (passed now T = true ↔ ((now.toNat : Int) - T.toNat) % 1048576 < 524288) ∧
    passed now now = true ∧
    (1 ≤ distance now T → distance (now + 1) T = distance now T - 1) ∧
    (distance now T = 524289 → distance (now + 1) T = 524288 ∧ passed (now + 1) T = false)

/-- PHASE_FIRE hands the head of the batch to the Seat Unit in RUNNING and QUIET (R23, R28): the showing's phase becomes
the end of the chain from the target, with the due entry of the next phase; a showing that ends in CLOSED loses its
holds and their due entries; its other fields, every other showing and every other due entry stay. HOLD_EXPIRE frees the
hold at the head of the batch, gives its seats back and reports HOLD_EXPIRED (R55); no other due entry goes. A change of
counts stamps the showing and marks it for write-back, and the rosters of its hall follow (R30, R14; a VACANT entry
having no hall by log 22). The entry times are start − lead, start and start + grace (R21). The phase that now gives is
the last of ON_SALE, LAST_CALL, STARTED, CLOSED whose entry time has passed, ON_SALE's always (R21). The chain from a
phase goes on to the next of that order while its entry time has passed; it ends in CLOSED with no due entry, or in a
phase whose successor is pending, with the due entry of that one (R22). -/
def Obligations.PhaseFiredAndHoldExpired : Prop :=
  (∀ (s : State) (i : ShowingIx) (p : Phase) (tm : LobbyTime) (rest : List DueEntry),
    s.resetN = true → s.active = true → s.due.batch = { key := .phase i, target := some p, time := tm } :: rest →
    p = .lastCall ∨ p = .started ∨ p = .closed →
    ∃ t, exec .phaseFire s = .next t ∧
      t = { s with
        seats := t.seats, holds := t.holds, due := t.due, commit := t.commit, roster := t.roster
        painter := t.painter, reports := t.reports, offers := t.offers } ∧
      t.commit = { s.commit with wbShowings := t.commit.wbShowings } ∧ seatChanged s t i ∧
      let e := s.seats.entries.get i
      let f := t.seats.entries.get i
      let gone := fun (d : DueEntry) => d.key = .phase i ∨
        (f.phase = .closed ∧ ∃ h, d.key = .hold h ∧ holdNames (s.holds.get h) i = true)
      f.phase = (phaseChain s.setup s.clock.now e.start p).1 ∧ f.title = e.title ∧ f.hall = e.hall ∧
        f.start = e.start ∧ f.capacity = e.capacity ∧ f.sold = e.sold ∧ f.left = f.capacity - f.sold - f.held ∧
        (f.phase ≠ .closed → f.held = e.held ∧ t.holds = s.holds) ∧
        (f.phase = .closed → f.held = 0 ∧ (∀ h x, t.holds.get h = some x → x.showing ≠ i) ∧
          ∀ h, holdNames (s.holds.get h) i = false → t.holds.get h = s.holds.get h) ∧
        (f.phase ≠ .closed → ∃ q next, (phaseChain s.setup s.clock.now e.start p).2 = some (q, next) ∧
          { key := .phase i, target := some q, time := next } ∈ t.due.list) ∧
        (∀ d, gone d → d ∉ t.due.batch ∧ (d ∈ t.due.list ↔
          ∃ q next, (phaseChain s.setup s.clock.now e.start p).2 = some (q, next) ∧
            d = { key := .phase i, target := some q, time := next })) ∧
        (∀ d, ¬gone d → (d ∈ t.due.list ↔ d ∈ s.due.list) ∧ (d ∈ t.due.batch ↔ d ∈ rest)) ∧
        reportsMade s t (soldOutMade s t i)) ∧
  (∀ (s : State) (h : HoldIx) (x : Hold) (tgt : Option Phase) (tm : LobbyTime) (rest : List DueEntry),
    s.resetN = true → s.active = true → s.due.batch = { key := .hold h, target := tgt, time := tm } :: rest →
    s.holds.get h = some x → (s.seats.entries.get x.showing).sound →
    x.seats ≤ (s.seats.entries.get x.showing).held → 1 ≤ x.seats →
    ∃ t, exec .holdExpire s = .next t ∧
      t = { s with
        seats := t.seats, holds := setAt s.holds h none, due := t.due, commit := t.commit, roster := t.roster
        painter := t.painter, reports := t.reports, offers := t.offers } ∧
      t.commit = { s.commit with wbShowings := t.commit.wbShowings } ∧
      t.due = { list := s.due.list.filter fun d => d.key ≠ .hold h, batch := rest.filter fun d => d.key ≠ .hold h } ∧
      countsGiven s t x.showing (s.seats.entries.get x.showing).sold
        ((s.seats.entries.get x.showing).held - x.seats) ∧
      t.seats.entries.get x.showing =
        { s.seats.entries.get x.showing with
          held := (s.seats.entries.get x.showing).held - x.seats
          left := (s.seats.entries.get x.showing).left + x.seats
          changed := s.clock.now } ∧
      (acceptsReports s 1 → t.reports.queue = s.reports.queue ++
        [report .holdExpired s.clock.now (le8 x.showing.val)
          (le8 x.desk.val ++ le16 x.token.toNat ++ le16 x.seats)])) ∧
  ∀ (c : Setup) (now start : LobbyTime),
    let last := start - BitVec.ofNat 20 c.lead
    let closing := start + BitVec.ofNat 20 c.grace
    let past := fun T => passed now T = true
    (past closing → phaseFromNow c now start = .closed) ∧
    (¬past closing → past start → phaseFromNow c now start = .started) ∧
    (¬past closing → ¬past start → past last → phaseFromNow c now start = .lastCall) ∧
    (¬past closing → ¬past start → ¬past last → phaseFromNow c now start = .onSale) ∧
    (¬past last → phaseChain c now start .onSale = (.onSale, some (.lastCall, last))) ∧
    (past last → phaseChain c now start .onSale = phaseChain c now start .lastCall) ∧
    (¬past start → phaseChain c now start .lastCall = (.lastCall, some (.started, start))) ∧
    (past start → phaseChain c now start .lastCall = phaseChain c now start .started) ∧
    (¬past closing → phaseChain c now start .started = (.started, some (.closed, closing))) ∧
    (past closing → phaseChain c now start .started = (.closed, none)) ∧
    phaseChain c now start .closed = (.closed, none)

/-- NOTICE_EXPIRE makes the notice at the head of the batch IDLE and reports NOTICE_EXPIRED (R113); a line notice
touches no other notice and no cache entry. A notice record handed over (R110 to R113): a refused one is reported with
the first case that holds, and nothing else changes. WITHDRAWN makes a standing notice IDLE, off the wait list and
without a Due List entry; its fields stay. POSTED gives the entry the record's fields and the next post sequence number,
which the counter takes; a line notice becomes LINE_ACTIVE and a banner is waiting, loading or ready; and its one
NOTICE_EXPIRE entry is due after its lifetime, or it has none for a lifetime of 0; no other due entry changes. When a
line notice becomes LINE_ACTIVE or leaves that state, the NOTICE lines of the panels of its mask show their content anew
(R114; that the wait list holds waiting banners alone, which DueLaw says, is a premise). For each panel the LINE_ACTIVE
notices of its mask are ranked by priority, highest first, and then newest first (R114). The fields are those of the
record of R185. -/
def Obligations.NoticePostedAndEnded : Prop :=
  (∀ bs : List Byte,
    let r := noticeRec bs
    r.text = (bs.take 48) ∧ r.kind = u8 bs 48 ∧ r.priority = u8 bs 49 ∧ r.length = u8 bs 50 ∧ r.intent = u8 bs 51 ∧
      (∀ p : PanelIx, r.mask.getLsbD p.val = (byteAt bs (52 + p.val / 8)).getLsbD (p.val % 8)) ∧
      r.lifetime = u8 bs 56 + 256 * u8 bs 57) ∧
  (∀ (s : State) (n : NoticeIx) (tgt : Option Phase) (tm : LobbyTime) (rest : List DueEntry),
    s.resetN = true → s.active = true → s.due.batch = { key := .notice n, target := tgt, time := tm } :: rest →
    (s.notices.entries.get n).state ≠ .idle →
    ∃ t, exec .noticeExpire s = .next t ∧
      t = { s with
        due := { s.due with batch := rest }, notices := t.notices, roster := t.roster, painter := t.painter
        reports := t.reports, offers := t.offers } ∧
      (t.notices.entries.get n).state = .idle ∧ n ∉ t.notices.waitList ∧
      ((∀ k ∈ s.notices.waitList, (s.notices.entries.get k).state = .bannerWaiting) →
        boardsFollow s t (fun p => (s.notices.entries.get n).state = .lineActive ∧
          (s.notices.entries.get n).fields.mask.getLsbD p.val = true) fun kind => kind = .notice) ∧
      ((s.notices.entries.get n).state = .lineActive →
        (∀ k, k ≠ n → t.notices.entries.get k = s.notices.entries.get k) ∧ t.notices.cache = s.notices.cache) ∧
      (acceptsReports s 1 → t.reports.queue = s.reports.queue ++
        [report .noticeExpired s.clock.now (le8 n.val)
          (le8 (s.notices.entries.get n).fields.kind.code ++ le32 (s.notices.entries.get n).seq.toNat)])) ∧
  (∀ (s : State) (n : NoticeIx) (bs : List Byte),
    let r := noticeRec bs
    let t := handRecord s (.notice n) bs
    let x := s.notices.entries.get n
    let y := t.notices.entries.get n
    let expiry : List DueEntry := t.due.list ++ t.due.batch
    let stood := fun (p : PanelIx) => x.state = .lineActive ∧ x.fields.mask.getLsbD p.val = true
    let waiting := ∀ k ∈ s.notices.waitList, (s.notices.entries.get k).state = .bannerWaiting
    let othersDue := ∀ d : DueEntry, d.key ≠ .notice n →
      (d ∈ t.due.list ↔ d ∈ s.due.list) ∧ (d ∈ t.due.batch ↔ d ∈ s.due.batch)
    (∀ detail,
      (r.intent ≠ 1 ∧ r.intent ≠ 2 ∧ detail = le8 1 ++ le8 r.intent) ∨
        (r.intent = 1 ∧
          ((r.kind ≠ 1 ∧ r.kind ≠ 2 ∧ detail = le8 2 ++ le8 r.kind) ∨
            ((r.kind = 1 ∨ r.kind = 2) ∧
              (((r.length = 0 ∨ 48 < r.length) ∧ detail = le8 3 ++ le8 r.length) ∨
                (1 ≤ r.length ∧ r.length ≤ 48 ∧
                  ((7 < r.priority ∧ detail = le8 4 ++ le8 r.priority) ∨
                    (r.priority ≤ 7 ∧ r.mask = 0 ∧ detail = le8 5 ++ le24 0))))))) →
      t = { s with reports := t.reports } ∧
        (acceptsReports s 1 → t.reports.queue = s.reports.queue ++
          [report .noticeRefused s.clock.now (le8 n.val) detail])) ∧
    (r.intent = 2 →
      (x.state = .idle → t = s) ∧
      (x.state ≠ .idle →
        t = { s with notices := t.notices, due := t.due, roster := t.roster, painter := t.painter } ∧
        y = { x with state := .idle, entries := [] } ∧ n ∉ t.notices.waitList ∧
        t.notices.counter = s.notices.counter ∧ (∀ d ∈ expiry, d.key ≠ .notice n) ∧ othersDue ∧
        (waiting → boardsFollow s t stood fun kind => kind = .notice))) ∧
    (r.intent = 1 → r.kind = 1 ∨ r.kind = 2 → 1 ≤ r.length → r.length ≤ 48 → r.priority ≤ 7 → r.mask ≠ 0 →
      t = { s with
        notices := t.notices, due := t.due, roster := t.roster, painter := t.painter, reports := t.reports } ∧
      y.fields = { text := r.text, kind := if r.kind = 1 then .line else .banner, priority := r.priority
                   length := r.length, mask := r.mask, lifetime := r.lifetime } ∧
      y.seq = s.notices.counter + 1 ∧ t.notices.counter = s.notices.counter + 1 ∧
      (r.kind = 1 → y.state = .lineActive ∧ n ∉ t.notices.waitList ∧ t.reports = s.reports) ∧
      (r.kind = 2 → (y.state = .bannerWaiting ∧ n ∈ t.notices.waitList) ∨
        ((y.state = .bannerLoading ∨ y.state = .bannerReady) ∧ n ∉ t.notices.waitList)) ∧
      (∀ d ∈ expiry, d.key = .notice n → r.lifetime ≠ 0 ∧
        d = { key := .notice n, target := none, time := s.clock.now + BitVec.ofNat 20 r.lifetime }) ∧
      (r.lifetime ≠ 0 → ∃ d ∈ t.due.list, d.key = .notice n) ∧ othersDue ∧
      (waiting → boardsFollow s t (fun p => stood p ∨ (r.kind = 1 ∧ r.mask.getLsbD p.val = true))
        fun kind => kind = .notice))) ∧
  ∀ (u : NoticeUnit) (p : PanelIx),
    let ranked := lineRanking u p
    (∀ n, n ∈ ranked ↔ (u.entries.get n).state = .lineActive ∧ (u.entries.get n).fields.mask.getLsbD p.val = true) ∧
    ranked.Nodup ∧
    ranked.Pairwise fun m n => (u.entries.get n).fields.priority < (u.entries.get m).fields.priority ∨
      ((u.entries.get n).fields.priority = (u.entries.get m).fields.priority ∧
        (u.entries.get n).seq.toNat ≤ (u.entries.get m).seq.toNat)

/-- GAP_TIMEOUT after the gap timeout skips the tail slot: JOURNAL_GAP is reported, the tail rises by one and from 63 to
0 with the lap toggled, and the header is marked; no seat and no hold changes (R45, R47). PASS_IDLE_TIMEOUT 10
centi-ticks after a panel's last read makes the panel IDLE and releases its latch (R128, R129); a panel without a latch
changes nothing else. Each cache entry of a latched banner loses one reference, and a HELD one whose count falls to 0
becomes EMPTY; the wait list is then walked (R116, R118). A latched slot's count falls by one, and the slot becomes FREE
exactly when it then is COMPLETE, not newest and at 0 (R141). -/
def Obligations.GapAndIdleTimersExpired : Prop :=
  (∀ (s : State) (t0 : Ticks),
    s.resetN = true → s.active = true → s.journal.gapStart = some t0 →
    s.setup.gap ≤ (s.clock.ticks - t0).toNat →
    ∃ t, exec .gapTimeout s = .next t ∧
      t = { s with journal := t.journal, commit := { s.commit with wbJournal := true }, reports := t.reports
                   offers := t.offers } ∧
      t.journal.tail.val = (s.journal.tail.val + 1) % 64 ∧
      t.journal.lap = (if s.journal.tail = 63 then s.journal.lap.other else s.journal.lap) ∧
      t.journal.marks = setAt s.journal.marks s.journal.tail false ∧ t.journal.fetch = s.journal.fetch ∧
      (t.journal.gapStart = if gapCondition t.journal then some s.clock.ticks else none) ∧
      (acceptsReports s 1 →
        t.reports.queue = s.reports.queue ++ [report .journalGap s.clock.now (le8 s.journal.tail.val) []])) ∧
  ∀ (s : State) (p : PanelIx) (t0 : Ticks),
    s.resetN = true → s.active = true → (s.scan.get p).idleStart = some t0 →
    10 ≤ (s.clock.ticks - t0).toNat →
    ∃ t, exec (.passIdleTimeout p) s = .next t ∧
      t = { s with
        scan := setAt s.scan p { s.scan.get p with
          scanning := false, idleStart := none, banner := none, trailer := none }
        notices := t.notices, trailers := t.trailers
        commit := { s.commit with wbStreams := t.commit.wbStreams }
        offers := t.offers } ∧
      ((s.scan.get p).banner = none → t.notices = s.notices) ∧
      (∀ b, (s.scan.get p).banner = some b →
        let old := s.notices.cache
        let emptied := fun e => e ∈ b.entries ∧ (old.get e).fill.isHeld = true ∧ (old.get e).refs ≤ 1
        ∃ u : NoticeUnit, u = { s.notices with cache := u.cache } ∧
          (∀ e, (e ∉ b.entries → u.cache.get e = old.get e) ∧ (emptied e → u.cache.get e = .empty) ∧
            (e ∈ b.entries → ¬emptied e → u.cache.get e = { old.get e with refs := (old.get e).refs - 1 })) ∧
          ((∀ e, ¬emptied e) → t.notices = u) ∧
          ((∃ e, emptied e) → t.notices = (walkWaitList { s with notices := u }).notices)) ∧
      ((s.scan.get p).trailer = none → t.trailers = s.trailers ∧ t.commit = s.commit) ∧
      (∀ l, (s.scan.get p).trailer = some l →
        let x := (s.trailers.streams.get l.stream).slots.get l.slot
        let y := (t.trailers.streams.get l.stream).slots.get l.slot
        let freed := x.state = .complete ∧ x.newest = false ∧ x.latches ≤ 1
        let st := s.trailers.streams.get l.stream
        t.trailers = { s.trailers with
          streams := setAt s.trailers.streams l.stream { st with slots := setAt st.slots l.slot y } } ∧
        statusMarked s t l.stream False ∧ (freed → y = .free ∧ l.stream ∈ t.commit.wbStreams) ∧
        (¬freed → y = { x with latches := x.latches - 1 } ∧ t.commit = s.commit))

/-! ### The sale journal -/

/-- A tail fetch answered OK with a SELL on a showing that passes the phase gate sells min(n, seats left) seats, and
with a REFUND on a showing that is not VACANT gives min(n, sold) back; the tail advances; holds and other showings stay
(R48, R49, R50, R45). Of the showing's entry only sold, seats left and the time of last change are new: seats left is
capacity − sold − held (R20), and a change of counts sets the time of last change to now, marks the showing for
write-back, and has the rosters of its hall follow (R30, R14; a VACANT entry having no hall by log 22). When fewer than
n are applied, SALE_CLAMPED or REFUND_CLAMPED reports n and the number applied, and a SOLD_OUT follows when seats left
fell from above 0 to 0 in ON_SALE, LAST_CALL or STARTED (R32). A SELL or a HOLD that the gate turns away is reported
SALE_REFUSED and changes no seat and no hold (R48). The fields are those of the journal record of R184. -/
def Obligations.JournalSaleAndRefund : Prop :=
  (∀ bs : List Byte,
    let r := journalRec bs
    r.showing.val = u8 bs 0 ∧ r.action = u8 bs 1 ∧ r.seats = u8 bs 2 ∧ r.desk = u8 bs 3 ∧
      r.token.toNat = u8 bs 4 + 256 * u8 bs 5 ∧ r.life = u8 bs 6 + 256 * u8 bs 7) ∧
  ∀ (s : State) (m : MemTag) (u : TagUse) (data : List Byte), tailTaken s m u data →
    let r := journalRec data
    let e := s.seats.entries.get r.showing
    recordInRange r →
    ((r.action = 1 ∧ passesGate e.phase = true) ∨ (r.action = 2 ∧ e.phase ≠ .vacant) →
      ∃ t, exec (.journalFetchComplete m .ok data) s = .next t ∧
        t = { s with
          traffic := t.traffic, seats := t.seats, journal := t.journal, commit := t.commit, roster := t.roster
          painter := t.painter, reports := t.reports, offers := t.offers } ∧ onlyFreed s t m ∧
        countsGiven s t r.showing
          (if r.action = 1 then e.sold + min r.seats e.left else e.sold - min r.seats e.sold) e.held ∧
        tailAdvanced s t ∧ t.commit = { s.commit with wbShowings := t.commit.wbShowings, wbJournal := true } ∧
        reportsMade s t
          ((if r.action = 1 then clampMade s .saleClamped r (min r.seats e.left)
            else clampMade s .refundClamped r (min r.seats e.sold)) ++ soldOutMade s t r.showing)) ∧
    (r.action = 1 ∨ r.action = 3 → e.phase = .closed ∨ e.phase = .cancelled →
      ∃ t, exec (.journalFetchComplete m .ok data) s = .next t ∧ onlySkipped s t m ∧
        (acceptsReports s 1 → t.reports.queue = s.reports.queue ++ [report .saleRefused s.clock.now
          (le8 s.journal.tail.val ++ le8 r.showing.val) (le8 r.action ++ le8 e.phase.code)]))

/-- A tail fetch answered OK with a HOLD that is not refused makes a hold of min(n, seats left) seats in a free entry of
the Hold Table, due to expire after its clamped life (R51), and the other due entries stay. Of the showing's entry only
held, seats left and the time of last change are new, with the consequences of R30 (R20, R14; a VACANT entry having no
hall by log 22). When the seats held are fewer than n, HOLD_SHORT reports n and the number applied, and a SOLD_OUT
follows when no seat is left (R32). One that passes the gate is refused, with the first case that holds, when the table
is full, when a live hold has its desk and token, or when no seat is left; then no seat and no hold changes. -/
def Obligations.JournalHoldMade : Prop :=
  ∀ (s : State) (m : MemTag) (u : TagUse) (data : List Byte), tailTaken s m u data →
    let r := journalRec data
    let e := s.seats.entries.get r.showing
    recordInRange r → r.action = 3 → passesGate e.phase = true →
    (∀ h, freeHold s = some h → findHold s (deskOf r) r.token = none → 1 ≤ e.left →
      ∃ t, exec (.journalFetchComplete m .ok data) s = .next t ∧ onlyFreed s t m ∧
        t = { s with
          traffic := t.traffic, seats := t.seats, holds := t.holds, due := t.due, journal := t.journal
          commit := t.commit, roster := t.roster, painter := t.painter, reports := t.reports, offers := t.offers } ∧
        t.holds = setAt s.holds h (some
          { showing := r.showing, desk := deskOf r, token := r.token, seats := min r.seats e.left }) ∧
        s.holds.get h = none ∧
        countsGiven s t r.showing e.sold (e.held + min r.seats e.left) ∧
        (let due := s.clock.now + BitVec.ofNat 20 (max 30 (min r.life 900))
         ∀ d, d.key = .hold h → (d ∈ t.due.list ↔ d = { key := .hold h, target := none, time := due })) ∧
        t.due.list.filter (fun d => d.key ≠ .hold h) = s.due.list.filter (fun d => d.key ≠ .hold h) ∧
        t.due.batch = s.due.batch.filter (fun d => d.key ≠ .hold h) ∧
        tailAdvanced s t ∧ t.commit = { s.commit with wbShowings := t.commit.wbShowings, wbJournal := true } ∧
        reportsMade s t (clampMade s .holdShort r (min r.seats e.left) ++ soldOutMade s t r.showing)) ∧
    let live := fun (x : Hold) => x.desk.val = r.desk ∧ x.token = r.token
    ∀ reason,
      ((∀ h, s.holds.get h ≠ none) ∧ reason = 1) ∨
        ((∃ h, s.holds.get h = none) ∧
          (((∃ h x, s.holds.get h = some x ∧ live x) ∧ reason = 2) ∨
            ((∀ h x, s.holds.get h = some x → ¬live x) ∧ e.left = 0 ∧ reason = 3))) →
      ∃ t, exec (.journalFetchComplete m .ok data) s = .next t ∧ onlySkipped s t m ∧
        (acceptsReports s 1 → t.reports.queue = s.reports.queue ++ [report .holdRefused s.clock.now
          (le8 s.journal.tail.val ++ le8 r.showing.val) (le8 reason ++ le8 r.desk ++ le16 r.token.toNat)])

/-- A tail fetch answered OK with a CONVERT or a RELEASE that finds its hold on its showing frees the hold and its due
entry, and no other due entry goes; the hold's seats leave held, and a CONVERT's are sold (R52, R53). Of the showing's
entry only sold, held, seats left and the time of last change are new, with the consequences of R30 (R20, R14; a VACANT
entry having no hall by log 22). A RELEASE that does not is reported RELEASE_UNKNOWN and changes no seat and no hold. A
CONVERT that does not is reported CONVERT_LATE and taken as a SELL of its seats: with no hold changed it sells min(n,
seats left), with SALE_CLAMPED when that is less than n, or the phase gate refuses it, with the record's own action in
the report (log 20). In each case a SOLD_OUT follows when seats left fell from above 0 to 0 (R32). -/
def Obligations.JournalHoldEnded : Prop :=
  ∀ (s : State) (m : MemTag) (u : TagUse) (data : List Byte), tailTaken s m u data →
    let r := journalRec data
    let e := s.seats.entries.get r.showing
    let subject := le8 s.journal.tail.val ++ le8 r.showing.val
    let token := le8 r.desk ++ le16 r.token.toNat
    recordInRange r → e.phase ≠ .vacant →
    (∀ h x, r.action = 4 ∨ r.action = 5 → findHold s (deskOf r) r.token = some (h, x) → x.showing = r.showing →
      ∃ t, exec (.journalFetchComplete m .ok data) s = .next t ∧ onlyFreed s t m ∧
        t = { s with
          traffic := t.traffic, seats := t.seats, holds := t.holds, due := t.due, journal := t.journal
          commit := t.commit, roster := t.roster, painter := t.painter, reports := t.reports, offers := t.offers } ∧
        t.holds = setAt s.holds h none ∧ x.desk = deskOf r ∧ x.token = r.token ∧
        countsGiven s t r.showing (if r.action = 4 then e.sold + x.seats else e.sold) (e.held - x.seats) ∧
        t.due = { list := s.due.list.filter fun d => d.key ≠ .hold h
                  batch := s.due.batch.filter fun d => d.key ≠ .hold h } ∧
        tailAdvanced s t ∧ t.commit = { s.commit with wbShowings := t.commit.wbShowings, wbJournal := true } ∧
        reportsMade s t (soldOutMade s t r.showing)) ∧
    ∀ other,
      (findHold s (deskOf r) r.token = none ∧ other = 0) ∨
        ((∃ h x, findHold s (deskOf r) r.token = some (h, x) ∧ x.showing ≠ r.showing) ∧ other = 1) →
      (r.action = 5 → ∃ t, exec (.journalFetchComplete m .ok data) s = .next t ∧ onlySkipped s t m ∧
        (acceptsReports s 1 → t.reports.queue = s.reports.queue ++
          [report .releaseUnknown s.clock.now subject token])) ∧
      (r.action = 4 → passesGate e.phase = false → ∃ t, exec (.journalFetchComplete m .ok data) s = .next t ∧
        onlySkipped s t m ∧
        (acceptsReports s 2 → t.reports.queue = s.reports.queue ++
          [report .convertLate s.clock.now subject (token ++ le8 other),
            report .saleRefused s.clock.now subject (le8 r.action ++ le8 e.phase.code)])) ∧
      (r.action = 4 → passesGate e.phase = true → ∃ t, exec (.journalFetchComplete m .ok data) s = .next t ∧
        onlyFreed s t m ∧
        t = { s with
          traffic := t.traffic, seats := t.seats, journal := t.journal, commit := t.commit, roster := t.roster
          painter := t.painter, reports := t.reports, offers := t.offers } ∧
        countsGiven s t r.showing (e.sold + min r.seats e.left) e.held ∧ tailAdvanced s t ∧
        t.commit = { s.commit with wbShowings := t.commit.wbShowings, wbJournal := true } ∧
        reportsMade s t (report .convertLate s.clock.now subject (token ++ le8 other) ::
          (clampMade s .saleClamped r (min r.seats e.left) ++ soldOutMade s t r.showing)))

/-- A tail fetch answered OK with a bad record: JOURNAL_BAD names the first case that holds, no seat and no hold
changes, and the tail advances (R44, R45). One answered OK while FETCHING_STALE is discarded, and offered again for the
same slot (R43). One answered FAULT, or timed out, stale or not, raises MEMORY_FAULT and skips the slot with
JOURNAL_BAD, reason FETCH_FAULT, whose showing byte is a free value (log 15); the action byte of mode REPORT in QUIET is
the reading of log 27. The containment mode acts between the two (R171, R172): QUIET takes RUNNING to QUIET, where the
slot is skipped all the same (R173). Where it takes the part to TRANSPARENT, the slot is not skipped and the tail stays
(R174); that this entry drops the plans of forwarded reads and empties the report header queue is the reading of log 25.
-/
def Obligations.JournalBadSkipped : Prop :=
  (∀ (s : State) (m : MemTag) (u : TagUse) (data : List Byte) (reason : Nat), tailTaken s m u data →
    let r := journalRec data
    ((r.action = 0 ∨ 5 < r.action) ∧ reason = 1) ∨
      ((1 ≤ r.action ∧ r.action ≤ 5) ∧
        (((r.seats = 0 ∨ 16 < r.seats) ∧ reason = 2) ∨
          ((1 ≤ r.seats ∧ r.seats ≤ 16) ∧
            ((7 < r.desk ∧ reason = 3) ∨
              (r.desk ≤ 7 ∧ (s.seats.entries.get r.showing).phase = .vacant ∧ reason = 4))))) →
    ∃ t, exec (.journalFetchComplete m .ok data) s = .next t ∧ onlySkipped s t m ∧
      (acceptsReports s 1 → t.reports.queue = s.reports.queue ++
        [report .journalBad s.clock.now (le8 s.journal.tail.val ++ le8 r.showing.val) (le8 reason)])) ∧
  ∀ (s : State) (m : MemTag) (u : TagUse) (c : Instr) (res : ReadResult) (ended : State),
    readEnds s m u .journalFetch (fun st data => .journalFetchComplete m st data) c res ended → s.active = true →
    (∀ data, res = .ok data → s.journal.fetch = .stale →
      ∃ t, exec c s = .next t ∧
        t = { ended with journal := { s.journal with fetch := .none }, offers := t.offers } ∧
        (s.journal.marks.get s.journal.tail = true → .journal ∈ t.offers.commit)) ∧
    (res = .fault → ∃ t x, exec c s = .next t ∧
      (let skipped : State := { ended with
        journal := t.journal, commit := { s.commit with wbJournal := true }, reports := t.reports, free := t.free }
       s.setup.mode ≠ .transparent → tailAdvanced s t ∧
        (s.setup.mode = .report ∨ s.part = .quiet → t = { skipped with offers := t.offers }) ∧
        (s.setup.mode = .quiet → s.part = .running → quietFrom skipped t) ∧
        reportsMade s t [memoryFaultReport s .commit u.addr false,
          report .journalBad s.clock.now (le8 s.journal.tail.val ++ [x]) [5]]) ∧
      (s.setup.mode = .transparent → transparentFrom { ended with reports := t.reports } t ∧
        (acceptsReports s 1 → t.reports.queue = s.reports.queue ++ [memoryFaultReport s .commit u.addr false])))

/-! ### Record fetches and write-backs -/

/-- COMMIT_FETCH_COMPLETE (R13). Before the last burst of a fetch is answered, the answer is only noted. With the last,
and every answer OK, a FETCHING record becomes IDLE and its content, the answers in address order, is handed to its
owner by `handRecord`, whatever its family; a FETCHING_STALE one is discarded and joins the tail of the commit queue. If
an answer was FAULT, or a burst timed out, nothing is handed on: MEMORY_FAULT is reported with the address of the first
burst that faulted (log 10; its action byte under mode REPORT in QUIET is the reading of log 27), and the record becomes
IDLE, or is queued again if it was stale, under mode QUIET as well, which takes RUNNING to QUIET (R171 to R173). Mode
TRANSPARENT enters TRANSPARENT, where every record is IDLE (R17, R174); that this entry drops the plans of forwarded
reads and empties the report header queue is the reading of log 25. A title handed over is the record's first 28 bytes
with the record's length, 28 at most; the roster lines that name a showing of that title show their content anew, and no
other line changes (R81). -/
def Obligations.RecordFetchEnded : Prop :=
  (∀ (s : State) (m : MemTag) (u : TagUse) (r : RecordId) (k : Nat) (f : Fetch) (c : Instr) (res : ReadResult)
    (ended : State),
    readEnds s m u (.commitFetch r k) (fun st data => .commitFetchComplete m st data) c res ended → s.active = true →
    s.commit.fetches.find? (fun x => x.record == r) = some f →
    let bursts := (fetchShape r).1
    let taken := f.taken ++ [(k, res)]
    let rest := s.commit.fetches.filter fun x => x.record != r
    ∃ t, exec c s = .next t ∧
      (taken.length < bursts → t = { ended with
        commit := { s.commit with
          fetches := s.commit.fetches.map fun x => if x.record = r then { f with taken := taken } else x }
        offers := t.offers }) ∧
      (bursts ≤ taken.length → (∀ x ∈ taken, x.2 ≠ .fault) → s.commit.fetch.get r = .stale →
        t = { ended with
          commit := { s.commit with
            fetches := rest, fetch := s.commit.fetch.set r .queued, queue := s.commit.queue ++ [r] }
          offers := t.offers }) ∧
      (∀ d : Nat → List Byte, bursts ≤ taken.length → (∀ x ∈ taken, x.2 ≠ .fault) →
        (∀ j, j < bursts → resultOf taken j = some (.ok (d j))) → s.commit.fetch.get r = .fetching →
        t = { handRecord { ended with commit := { s.commit with
                fetches := rest, fetch := s.commit.fetch.set r .idle } } r ((List.range bursts).flatMap d) with
              offers := t.offers }) ∧
      (∀ j, bursts ≤ taken.length → taken.find? (fun x => x.2 == .fault) = some (j, .fault) →
        s.commit.fetch.get r = .fetching ∨ s.commit.fetch.get r = .stale →
        let stale := s.commit.fetch.get r = .stale
        let left : State := { ended with
          commit := { s.commit with
            fetches := rest
            fetch := s.commit.fetch.set r (if stale then .queued else .idle)
            queue := if stale then s.commit.queue ++ [r] else s.commit.queue }
          reports := t.reports }
        reportsMade s t [memoryFaultReport s .commit (BitVec.ofNat 32 (recordAddr s r + 128 * j)) false] ∧
        (s.setup.mode = .report ∨ (s.setup.mode = .quiet ∧ s.part = .quiet) → t = { left with offers := t.offers }) ∧
        (s.setup.mode = .quiet → s.part = .running → quietFrom left t) ∧
        (s.setup.mode = .transparent → transparentFrom { ended with reports := t.reports } t))) ∧
  ∀ (s : State) (k : TitleIx) (bs : List Byte),
    let t := handRecord s (.title k) bs
    let names := fun p l => (s.line p l).kind.isRoster = true ∧
      ∃ i, lineAt s.roster.assign p l = some i ∧ (s.seats.entries.get i).title = k
    let changed := fun (r : CellRef) => cellAt t.roster.targets r ≠ cellAt s.roster.targets r
    t = { s with roster := t.roster, painter := t.painter } ∧
      t.roster = { s.roster with
        titles := t.roster.titles, shown := t.roster.shown, targets := t.roster.targets } ∧
      (∀ p l, names p l → (computeLine t p l).roster = t.roster) ∧
      (∀ p l, ¬names p l → lineAt t.roster.shown p l = lineAt s.roster.shown p l) ∧
      (∀ r : CellRef, changed r → names r.panel r.line) ∧ offeredByTarget s t changed ∧
      t.roster.titles = setAt s.roster.titles k { text := bs.take 28, length := min (u8 bs 28) 28 }

/-- A showing record handed over. One that R24 refuses is reported with the first case that holds, and nothing else of
the part changes; RANGE is an intent above 2, or under the intents OPEN and CANCELLED a title above 63, a hall above 31,
a start of 1,048,576 or more, or a capacity of 0 or above 999 (R19). OPEN (R25): the four fields come from the record,
sold stays, the phase is the end of the chain from the phase now gives (as PhaseFiredAndHoldExpired has them), its one
PHASE entry is that of the chain, and seats left follows. CANCELLED (R27): the four fields come from the record, sold
stays, held becomes 0 and the phase CANCELLED. VACANT (R29): every field is 0. In the last two cases the showing's holds
go with their due entries, and its PHASE entry goes; no other due entry does, and none but the holds' of a showing that
ends in CLOSED when one is OPEN (R28). A change of phase, seats left, sold or held stamps the time of last change and
marks the showing for write-back, and a change of any of the eight fields has the rosters of the old and the new hall
follow (R30, R14; a VACANT entry having no hall by log 22); SOLD_OUT is reported as R32 says. No other showing changes.
-/
def Obligations.ShowingHandedOver : Prop :=
  (∀ (s : State) (i : ShowingIx) (bs : List Byte),
    let title := u8 bs 0
    let hall := u8 bs 1
    let intent := u8 bs 2
    let start := u32 bs 4
    let capacity := u16 bs 8
    let e := s.seats.entries.get i
    let t := handRecord s (.showing i) bs
    let f := t.seats.entries.get i
    let inRange := title ≤ 63 ∧ hall ≤ 31 ∧ start < 1048576 ∧ 1 ≤ capacity ∧ capacity ≤ 999
    let open' := intent = 1 ∧ inRange ∧ e.phase ≠ .closed ∧ e.phase ≠ .cancelled ∧ e.sold + e.held ≤ capacity
    let cancel := intent = 2 ∧ inRange ∧ e.phase ≠ .closed ∧ e.sold ≤ capacity
    let vacate := intent = 0
    (open' ∨ cancel ∨ vacate →
      t = { s with
        seats := t.seats, holds := t.holds, due := t.due, roster := t.roster, painter := t.painter
        commit := { s.commit with wbShowings := t.commit.wbShowings }, reports := t.reports } ∧
      seatChanged s t i ∧ reportsMade s t (soldOutMade s t i)) ∧
    (open' ∨ cancel → f.title.val = title ∧ f.hall.val = hall ∧ f.start.toNat = start ∧
      f.capacity = capacity ∧ f.sold = e.sold ∧ f.left = f.capacity - f.sold - f.held) ∧
    (open' →
      f.phase = (phaseChain s.setup s.clock.now f.start (phaseFromNow s.setup s.clock.now f.start)).1 ∧
      (f.phase ≠ .closed → f.held = e.held ∧ t.holds = s.holds) ∧
      (f.phase = .closed → f.held = 0 ∧
        ∀ h, t.holds.get h = if holdNames (s.holds.get h) i then none else s.holds.get h) ∧
      (∀ d, d.key = .phase i → (d ∈ t.due.list ++ t.due.batch ↔ ∃ q tm,
        (phaseChain s.setup s.clock.now f.start (phaseFromNow s.setup s.clock.now f.start)).2 = some (q, tm) ∧
          d = { key := .phase i, target := some q, time := tm })) ∧
      (∀ d, d.key ≠ .phase i →
        let freed := f.phase = .closed ∧ ∃ h, d.key = .hold h ∧ holdNames (s.holds.get h) i = true
        (d ∈ t.due.list ↔ d ∈ s.due.list ∧ ¬freed) ∧ (d ∈ t.due.batch ↔ d ∈ s.due.batch ∧ ¬freed))) ∧
    (cancel → f.phase = .cancelled ∧ f.held = 0) ∧
    (vacate → f.phase = .vacant ∧ f.capacity = 0 ∧ f.sold = 0 ∧ f.held = 0 ∧ f.left = 0 ∧ f.title = 0 ∧ f.hall = 0 ∧
      f.start = 0) ∧
    (cancel ∨ vacate →
      (∀ h, t.holds.get h = if holdNames (s.holds.get h) i then none else s.holds.get h) ∧
      let gone := fun (d : DueEntry) => d.key = .phase i ∨ ∃ h, d.key = .hold h ∧ holdNames (s.holds.get h) i = true
      (∀ d, d ∈ t.due.list ↔ d ∈ s.due.list ∧ ¬gone d) ∧ ∀ d, d ∈ t.due.batch ↔ d ∈ s.due.batch ∧ ¬gone d)) ∧
  ∀ (s : State) (i : ShowingIx) (bs : List Byte) (detail : List Byte),
    let intent := u8 bs 2
    let capacity := u16 bs 8
    let e := s.seats.entries.get i
    let outOfRange := 2 < intent ∨ (intent ≠ 0 ∧ (63 < u8 bs 0 ∨ 31 < u8 bs 1 ∨ 1048576 ≤ u32 bs 4 ∨
      capacity = 0 ∨ 999 < capacity))
    (outOfRange ∧ detail = [1]) ∨
      (¬outOfRange ∧
        ((e.phase = .closed ∧ (intent = 1 ∨ intent = 2) ∧ detail = [2]) ∨
          (e.phase = .cancelled ∧ intent = 1 ∧ detail = [3]) ∨
          (e.phase ≠ .closed ∧ e.phase ≠ .cancelled ∧ intent = 1 ∧ capacity < e.sold + e.held ∧
            detail = 4 :: le16 capacity ++ le16 (e.sold + e.held)) ∨
          (e.phase ≠ .closed ∧ intent = 2 ∧ capacity < e.sold ∧
            detail = 4 :: le16 capacity ++ le16 e.sold))) →
    let t := handRecord s (.showing i) bs
    t = { s with reports := t.reports } ∧
      (acceptsReports s 1 → t.reports.queue = s.reports.queue ++
        [report .showingRefused s.clock.now (le8 i.val) detail])

/-- A catalog entry's fetch answered OK while FETCHING: a valid record is taken, with a linked title above 63 but 255
and a frame count outside 1–16383 refused; a refused one is reported with the first case that holds and the field's
value, and the entry kept (R146). A rotation table handed over replaces the stream's 32 phases, a byte of 0–47 naming
that entry and any other none, and nothing else changes (R147). -/
def Obligations.CatalogAndRotationHandedOver : Prop :=
  (∀ (s : State) (m : MemTag) (u : TagUse) (data : List Byte) (k : CatalogIx) (f : Fetch),
    liveOwn s m u (.commitFetch (.catalog k) 0) → u.isWrite = false → data.length = 8 * u.beats → s.active = true →
    s.commit.fetches.find? (fun x => x.record == .catalog k) = some f → f.taken = [] →
    s.commit.fetch.get (.catalog k) = .fetching →
    ∃ t, exec (.commitFetchComplete m .ok data) s = .next t ∧ onlyFreed s t m ∧
      (u8 data 0 ≤ 1 → (u8 data 1 ≤ 63 ∨ u8 data 1 = 255) → 1 ≤ u16 data 2 → u16 data 2 ≤ 16383 →
        t = { s with traffic := t.traffic, commit := t.commit, trailers := t.trailers, offers := t.offers } ∧
        t.trailers = { s.trailers with
          catalog := setAt s.trailers.catalog k
            { enabled := u8 data 0 == 1, linked := indexOrNone 64 (u8 data 1), frames := u16 data 2 } }) ∧
      ∀ detail,
        (1 < u8 data 0 ∧ detail = le8 1 ++ le8 (u8 data 0)) ∨
          (u8 data 0 ≤ 1 ∧
            ((63 < u8 data 1 ∧ u8 data 1 < 255 ∧ detail = le8 2 ++ le8 (u8 data 1)) ∨
              ((u8 data 1 ≤ 63 ∨ u8 data 1 = 255) ∧
                (u16 data 2 = 0 ∨ 16383 < u16 data 2) ∧ detail = le8 3 ++ le16 (u16 data 2)))) →
        t = { s with traffic := t.traffic, commit := t.commit, reports := t.reports, offers := t.offers } ∧
        (acceptsReports s 1 → t.reports.queue = s.reports.queue ++
          [report .catalogRefused s.clock.now (le8 k.val) detail])) ∧
  ∀ (s : State) (i : StreamIx) (bs : List Byte),
    let t := handRecord s (.rotation i) bs
    t = { s with trailers := { s.trailers with rotation := t.trailers.rotation } } ∧
      (∀ j, j ≠ i → t.trailers.rotation.get j = s.trailers.rotation.get j) ∧
      ∀ q : RotationIx,
        (u8 bs q.val < 48 → ((t.trailers.rotation.get i).get q).map (·.val) = some (u8 bs q.val)) ∧
        (48 ≤ u8 bs q.val → (t.trailers.rotation.get i).get q = none)

/-- A handed layout. It is refused exactly when a case of R78 holds, with the first of them in the table's order, and
the report names the first line descriptor of the case, or 255 for the banner spec when no line descriptor does (R79;
which line of a pair, and the free value under PANEL_DISABLED, are log 17 and log 15); nothing else changes. An accepted
one is the panel's layout (R80, R106): its paints are void, its old marks clear, every cell of its text lines is UNKNOWN
and queued, painting or on a marked line, its roster is computed anew, its lines are assigned from it and show their
content (RosterAndLineContent), each shown figure being the one the quantizer leaves from none (R80, R88); no other
panel's layout, targets or painted content change, and no report is made. The layout has the fields of R185, with F, Q
and H clamped (R76): F to 99, Q to 1–100, and H to Q − 1. -/
def Obligations.LayoutHandedOver : Prop :=
  (∀ (s : State) (p : PanelIx) (bs : List Byte),
    let t := handRecord s (.layout p) bs
    (∀ reason, layoutCase s p bs reason → (∀ q, q < reason → ¬layoutCase s p bs q) →
      t = { s with reports := t.reports, free := t.free } ∧ layoutRefused s t p bs reason) ∧
    ((∀ reason, ¬layoutCase s p bs reason) →
      t = { s with roster := t.roster, painter := t.painter } ∧ layoutInstalled s t p bs)) ∧
  ∀ bs : List Byte,
    let y := layoutOf bs
    let pixel := fun (o : Nat) =>
      ({ b := byteAt bs o, g := byteAt bs (o + 1), r := byteAt bs (o + 2), a := byteAt bs (o + 3) } : Pixel)
    (∀ k : PairIx, y.palette.get k = { fg := pixel (8 * k.val), bg := pixel (8 * k.val + 4) }) ∧
    (∀ n : LineIx,
      let o := 128 + 16 * n.val
      let ln := y.lines.get n
      (∀ kind, [LineKind.unused, .rosterWide, .rosterNarrow, .notice, .clock, .trailer][u8 bs o]? = some kind →
        ln.kind = kind ∧ (kind ≠ .unused →
          ln.rank = u8 bs (o + 1) ∧ ln.x = u16 bs (o + 2) ∧ ln.y = u16 bs (o + 4) ∧ ln.width = u8 bs (o + 6) ∧
          (u8 bs (o + 7) < 16 → ln.normal.val = u8 bs (o + 7)) ∧ (u8 bs (o + 8) < 16 → ln.alt.val = u8 bs (o + 8)) ∧
          (u8 bs (o + 9) < 16 → ln.soldOut.val = u8 bs (o + 9)) ∧
          (u8 bs (o + 10) < 16 → ln.started.val = u8 bs (o + 10)) ∧
          (u8 bs (o + 11) < 4 → ln.stream.val = u8 bs (o + 11))))) ∧
    y.banner = { enabled := u8 bs 384 != 0, dim := u8 bs 385, x := u16 bs 386, y := u16 bs 388
                 fg := pixel 392, bg := pixel 396 } ∧
    (∀ h : HallIx, y.filter.halls.getLsbD h.val = (byteAt bs (400 + h.val / 8)).getLsbD (h.val % 8)) ∧
    y.filter.inclStarted = (u8 bs 404 != 0) ∧ y.filter.skipSoldOut = (u8 bs 405 != 0) ∧
    y.filter.f = min 99 (u8 bs 406) ∧ y.filter.q = max 1 (min 100 (u8 bs 407)) ∧
    y.filter.h = min (u8 bs 408) (y.filter.q - 1)

/-- A write-back's completion (R15, R171, R172): an OK frees the tag and changes nothing else. A FAULT is reported as
MEMORY_FAULT, and the record does not rejoin its queue. Then the containment mode acts: REPORT, and QUIET in QUIET,
change nothing else; QUIET in RUNNING enters QUIET, where the part issues no row write and no write-back (R107, R173);
and TRANSPARENT enters TRANSPARENT, where it issues no own request (R174). That this entry drops the plans of forwarded
reads and empties the report header queue is the reading of log 25. -/
def Obligations.WriteBackCompleted : Prop :=
  ∀ (s : State) (m : MemTag) (u : TagUse) (w : WriteBack),
    liveOwn s m u (.writeBack w) → u.isWrite = true → s.active = true →
    (∃ t, exec (.writeBackComplete m .ok) s = .next t ∧ onlyFreed s t m ∧
      t = { s with traffic := t.traffic, offers := t.offers }) ∧
    ∃ t, exec (.writeBackComplete m .fault) s = .next t ∧
      (acceptsReports s 1 →
        t.reports.queue = s.reports.queue ++ [memoryFaultReport s .commit u.addr true] ∧
        t.reports.p = s.reports.p ∧ t.reports.c = s.reports.c ∧ t.reports.overflow = s.reports.overflow) ∧
      (s.setup.mode = .report ∨ (s.setup.mode = .quiet ∧ s.part = .quiet) → onlyFreed s t m ∧
        t = { s with traffic := t.traffic, reports := t.reports, offers := t.offers }) ∧
      (s.setup.mode = .quiet → s.part = .running → quietFrom (faultTaken s t m) t ∧ t.attnN = false) ∧
      (s.setup.mode = .transparent → transparentFrom (faultTaken s t m) t ∧ t.attnN = false)

/-! ### The Cell Painter -/

/-- CELL_TAKE in RUNNING with a FREE slot (R100): a cell whose target is its painted content is dropped; another enters
a slot in stage GLYPH, which records its target, its pixels and where it lies. When the queue's count falls to 128 or
below, the redraw-pending walk follows (R98, R99): the stale cells of marked lines that are not queued, painting or
faulted join the tail of the queue in the order of panel, line and cell, until it holds 256 cells or none is left; a
line's mark clears when the walk leaves it with none of them left out, and the marks of the line at which the walk ends
with a full queue and of the lines after it stand. The place taken loses its queued mark and gains the painting mark if
it enters the slot; every other place keeps its marks, but that those which join the queue are marked queued. -/
def Obligations.CellTaken : Prop :=
  ∀ (s : State) (r : CellRef) (rest : List CellRef),
    s.resetN = true → s.part = .running → s.painter.slots.length < 2 → s.painter.queue = r :: rest →
    let lineNo := fun (p : PanelIx) (l : LineIx) => 16 * p.val + l.val
    let place := fun (x : CellRef) => 48 * lineNo x.panel x.line + x.cell.val
    -- a cell that the walk offers and that may join: the place taken is painting or not stale
    let waits := fun (x : CellRef) => x ≠ r ∧ isCell s x = true ∧ stale s x = true ∧
      lineAt s.painter.redraw x.panel x.line = true ∧ (cellMarks s x).queued = false ∧
      (cellMarks s x).painting = false ∧ (cellMarks s x).faulted = false
    ∃ t, exec .cellTake s = .next t ∧
      t = { s with painter := t.painter, offers := t.offers } ∧
      cellMarks t r = { cellMarks s r with
        queued := false, painting := (cellMarks s r).painting || stale s r } ∧
      (128 < rest.length → t.painter.queue = rest ∧ t.painter.redraw = s.painter.redraw ∧
        ∀ x, x ≠ r → cellMarks t x = cellMarks s x) ∧
      (rest.length ≤ 128 → ∃ more, t.painter.queue = rest ++ more ∧ t.painter.queue.length ≤ 256 ∧
        (more.map place).Pairwise (· < ·) ∧ (∀ x ∈ more, waits x) ∧
        (∀ x, waits x → x ∉ more → t.painter.queue.length = 256 ∧ ∀ y ∈ more, place y < place x) ∧
        (∀ x, x ≠ r → cellMarks t x = { cellMarks s x with
          queued := (cellMarks s x).queued || decide (x ∈ more) }) ∧
        ∀ p l, (lineAt t.painter.redraw p l = true ↔ lineAt s.painter.redraw p l = true ∧
          ∃ x, waits x ∧ x ∉ more ∧ lineNo x.panel x.line ≤ lineNo p l)) ∧
      (stale s r = false → t.painter.slots = s.painter.slots) ∧
      (stale s r = true → (cellMarks t r).painting = true ∧
        ∃ p, t.painter.slots = s.painter.slots ++ [p] ∧ p.ref = r ∧
        (∀ q ∈ s.painter.slots, q.slot ≠ p.slot) ∧ p.rowsDone = 0 ∧
        p.target = cellAt s.roster.targets r ∧ p.stage = .glyph ∧ p.glyphIssued = false ∧ p.rowsIssued = 0 ∧
        p.void = false ∧ p.interrupted = false ∧ p.fault = none ∧
        p.fg = ((s.roster.layouts.get r.panel).palette.get p.target.pair).fg ∧
        p.bg = ((s.roster.layouts.get r.panel).palette.get p.target.pair).bg ∧
        p.x = (s.line r.panel r.line).x ∧ p.y = (s.line r.panel r.line).y ∧
        p.base = (s.setup.panels.get r.panel).base ∧ p.stride = (s.setup.panels.get r.panel).stride)

/-- The answers to a paint's requests, with one paint in flight or two (R101, R104, R107). A glyph read answered OK
gives the slot its glyph and stage ROWS, or ENDED if it is interrupted; a row write is counted, and the last one due
ends the paint. A glyph read answered FAULT ends the paint; a row write answered FAULT counts, and the paint remembers
the row, the lowest of them (log 19). The paint's first fault raises MEMORY_FAULT, and the containment mode acts; a
later one raises none. Under mode REPORT, and under mode QUIET in QUIET, nothing else changes but the slot; under mode
QUIET in RUNNING the part enters QUIET, the other paints and this one are interrupted, and the slot fares as it would
(R172, R173). In the mode TRANSPARENT the paints are frozen as they stood. The action byte of mode REPORT in
QUIET is the reading of log 27; that the entry to TRANSPARENT drops the plans of forwarded reads and empties the report
header queue is that of log 25. -/
def Obligations.PaintAnswered : Prop :=
  ∀ (s : State) (m : MemTag) (u : TagUse) (k : Fin 2) (p : Paint), s.active = true → p ∈ s.painter.slots →
    p.slot = k → (s.painter.slots.map fun q => q.slot).Nodup →
    let slotsWith := fun (x : Paint) => s.painter.slots.map fun q => if q.slot = k then x else q
    let last := p.rowsDone + 1 = p.rowsIssued ∧ (p.rowsIssued = 32 ∨ p.interrupted = true)
    let drawn : Paint := { p with rowsDone := p.rowsDone + 1, stage := if last then .ended else p.stage }
    let held := s.setup.mode = .report ∨ (s.setup.mode = .quiet ∧ s.part = .quiet)
    -- the part entered QUIET, with this paint as `x` and the others interrupted
    let quieted := fun (t : State) (x : Paint) =>
      t = { faultTaken s t m with
        part := .quiet, offers := t.offers
        painter := { s.painter with
          slots := s.painter.slots.map fun q => if q.slot = k then x else interruptedPaint q } } ∧
      (∀ j, t.offers.painter ≠ some (.row j)) ∧ ∀ w, .writeBack w ∉ t.offers.commit
    (∀ data, liveOwn s m u (.glyphRead k) → u.isWrite = false →
      (data.length = 8 * u.beats →
        ∃ t, exec (.glyphReadResponse m .ok data) s = .next t ∧ onlyFreed s t m ∧
          let read : Paint := { p with glyph := data, stage := if p.interrupted then .ended else .rows }
          t = { s with
            traffic := t.traffic, offers := t.offers, painter := { s.painter with slots := slotsWith read } }) ∧
      ∃ t, exec (.glyphReadResponse m .fault data) s = .next t ∧
        (acceptsReports s 1 → t.reports.queue = s.reports.queue ++
          (if p.fault = none then [memoryFaultReport s .painter u.addr false] else [])) ∧
        (held → onlyFreed s t m ∧
          let failed : Paint := { p with fault := some .glyph, stage := .ended }
          t = { s with
            traffic := t.traffic, reports := t.reports, offers := t.offers
            painter := { s.painter with slots := slotsWith failed } }) ∧
        (p.fault = none → s.setup.mode = .quiet → s.part = .running →
          quieted t { interruptedPaint p with fault := some .glyph, stage := .ended }) ∧
        (p.fault = none → s.setup.mode = .transparent → transparentFrom (faultTaken s t m) t)) ∧
    (∀ r, liveOwn s m u (.rowWrite k r) → u.isWrite = true →
      (∃ t, exec (.rowWriteResponse m .ok) s = .next t ∧ onlyFreed s t m ∧
        t = { s with
          traffic := t.traffic, offers := t.offers, painter := { s.painter with slots := slotsWith drawn } }) ∧
      ∃ t, exec (.rowWriteResponse m .fault) s = .next t ∧
        (acceptsReports s 1 → t.reports.queue = s.reports.queue ++
          (if p.fault = none then [memoryFaultReport s .painter u.addr true] else [])) ∧
        (held → onlyFreed s t m ∧
          let failed : Paint := { drawn with
            fault := match p.fault with
              | none => some (.row r)
              | some (.row q) => some (.row (min q r))
              | some .glyph => some .glyph }
          t = { s with
            traffic := t.traffic, reports := t.reports, offers := t.offers
            painter := { s.painter with slots := slotsWith failed } }) ∧
        (p.fault = none → s.setup.mode = .quiet → s.part = .running →
          let q := interruptedPaint p
          let ends := q.rowsDone + 1 = q.rowsIssued ∧ (q.rowsIssued = 32 ∨ q.interrupted = true)
          quieted t { q with
            fault := some (.row r), rowsDone := q.rowsDone + 1, stage := if ends then .ended else q.stage }) ∧
        (p.fault = none → s.setup.mode = .transparent → transparentFrom (faultTaken s t m) t))

/-- PAINT_COMPLETE of the first slot in stage ENDED (R103, R104, R106, R107): the slot becomes FREE, the place's
painting and spoiled marks clear, and its painted content is what was painted, or UNKNOWN after a spoiling, a fault, a
new layout or an interruption. A fault sets the faulted mark and is reported, and the cell is not offered. Otherwise the
cell is offered (R97, R103): if it is stale and neither queued nor faulted, it joins the tail of the queue, or its line
is marked redraw-pending when the queue holds 256; if not, queue and marks stay. Every other place keeps its marks. -/
def Obligations.PaintCompleted : Prop :=
  ∀ (s : State) (p : Paint) (rest : List Paint),
    s.resetN = true → s.active = true → s.painter.slots = p :: rest → p.stage = .ended →
    ∃ t, exec .paintComplete s = .next t ∧
      t = { s with painter := t.painter, reports := t.reports, offers := t.offers } ∧
      t.painter.slots = rest ∧
      (cellMarks t p.ref).painting = false ∧ (cellMarks t p.ref).spoiled = false ∧
      (p.void = false → p.fault = none → p.interrupted = false → (cellMarks s p.ref).spoiled = false →
        (cellMarks t p.ref).painted = some p.target) ∧
      (p.void = true ∨ p.fault.isSome = true ∨ p.interrupted = true ∨ (cellMarks s p.ref).spoiled = true →
        (cellMarks t p.ref).painted = none) ∧
      (p.void = true ∨ p.fault = none → t.reports = s.reports) ∧
      (∀ x, x ≠ p.ref → cellMarks t x = cellMarks s x) ∧
      cellMarks t p.ref = { cellMarks s p.ref with
        painted := (cellMarks t p.ref).painted, painting := false, spoiled := false
        faulted := (cellMarks s p.ref).faulted || (!p.void && p.fault.isSome)
        queued := (cellMarks t p.ref).queued } ∧
      (let offered := (p.void = true ∨ p.fault = none) ∧ isCell s p.ref = true ∧ stale t p.ref = true ∧
         (cellMarks s p.ref).queued = false ∧ (cellMarks s p.ref).faulted = false
       (offered → s.painter.queue.length < 256 → t.painter.queue = s.painter.queue ++ [p.ref] ∧
         (cellMarks t p.ref).queued = true ∧ t.painter.redraw = s.painter.redraw) ∧
       (offered → 256 ≤ s.painter.queue.length → t.painter.queue = s.painter.queue ∧
         (cellMarks t p.ref).queued = false ∧ ∀ q l, lineAt t.painter.redraw q l =
           (lineAt s.painter.redraw q l || decide (q = p.ref.panel ∧ l = p.ref.line))) ∧
       (¬offered → t.painter.queue = s.painter.queue ∧
         (cellMarks t p.ref).queued = (cellMarks s p.ref).queued ∧ t.painter.redraw = s.painter.redraw)) ∧
      (∀ f, p.void = false → p.fault = some f → (cellMarks t p.ref).faulted = true ∧
        t.painter.queue = s.painter.queue ∧ t.painter.redraw = s.painter.redraw ∧
        (acceptsReports s 1 → t.reports.queue = s.reports.queue ++ [report .paintFault s.clock.now
          (le8 p.ref.panel.val ++ le8 p.ref.line.val ++ le8 p.ref.cell.val)
          (p.target.code :: (match f with
            | .glyph => [0, 0]
            | .row r => 1 :: le8 r))]))

/-! ### Notices, reports, loads -/

/-- The end of the fetch of a FILLING entry, by GLYPH_FETCH_COMPLETE or by its timeout, which is a FAULT (R120, R171).
With references, an OK makes it HELD with the 64 bytes read; a FAULT is reported as MEMORY_FAULT and GLYPH_FAULT and
makes it HELD with a mask of zeros; a loading banner whose entries are then all HELD becomes READY. Without references
it becomes EMPTY, a FAULT being reported as MEMORY_FAULT alone, and the wait list is walked. Of a FAULT the containment
mode QUIET takes RUNNING to QUIET, where the entry fares the same (R172, R173); TRANSPARENT enters TRANSPARENT, and the
cache stays (R171, R174; that this entry drops the plans of forwarded reads and empties the report header queue is the
reading of log 25). Admission (R117): a banner fits when it misses no more codes than there are EMPTY entries. One that
fits takes a reference on the entry of each present code, and places its missing codes, in the order of the text, into
the lowest EMPTY entries, whose fetches join the list; it is READY if its entries are all HELD, and LOADING otherwise.
One that does not fit changes no entry and joins the wait list at its place, with a report. The walk (R118) tests the
waiting banners in order: those that fit leave the list, and none that is left on it fits. The action byte of the
MEMORY_FAULT of mode REPORT in QUIET is the reading of log 27. -/
def Obligations.GlyphFetchAndAdmission : Prop :=
  (∀ (s : State) (m : MemTag) (u : TagUse) (e : CacheIx) (code : Byte) (c : Instr) (res : ReadResult)
    (ended : State),
    readEnds s m u (.glyphFetch e) (fun st data => .glyphFetchComplete m st data) c res ended → s.active = true →
    (s.notices.cache.get e).fill = .filling code →
    let refs := (s.notices.cache.get e).refs
    let bits := match res with
      | .ok data => data
      | .fault => List.replicate 64 0
    ∃ t, exec c s = .next t ∧
      let taken : State := { ended with notices := t.notices, reports := t.reports }
      (res ≠ .fault ∨ s.setup.mode ≠ .transparent →
        (0 < refs →
          t.notices = { s.notices with cache := t.notices.cache, entries := t.notices.entries } ∧
          t.notices.cache = setAt s.notices.cache e { s.notices.cache.get e with fill := .held code bits } ∧
          ∀ n,
            let x := s.notices.entries.get n
            t.notices.entries.get n =
              if x.state = .bannerLoading ∧ (∀ y ∈ x.entries, (t.notices.cache.get y.2).fill.isHeld = true) then
                { x with state := .bannerReady }
              else x) ∧
        (refs = 0 → t.notices = (walkWaitList { s with
          notices := { s.notices with cache := setAt s.notices.cache e .empty } }).notices)) ∧
      (res ≠ .fault ∨ s.setup.mode = .report ∨ (s.setup.mode = .quiet ∧ s.part = .quiet) →
        t = { taken with offers := t.offers }) ∧
      (res ≠ .fault → t.reports = s.reports) ∧
      (res = .fault → s.setup.mode ≠ .transparent → reportsMade s t (memoryFaultReport s .notice u.addr false ::
        if 0 < refs then [report .glyphFault s.clock.now [code] (le8 e.val)] else [])) ∧
      (res = .fault → s.setup.mode = .quiet → s.part = .running → quietFrom taken t) ∧
      (res = .fault → s.setup.mode = .transparent → transparentFrom { ended with reports := t.reports } t ∧
        reportsMade s t [memoryFaultReport s .notice u.addr false])) ∧
  (∀ (s : State) (n : NoticeIx),
    let u := s.notices
    let x := u.entries.get n
    let missing := (codeSet x.fields).filter fun c =>
      (List.finRange 128).all fun e => (u.cache.get e).fill.code != some c
    let empties := (List.finRange 128).filter fun e => (u.cache.get e).fill == .empty
    let t := tryBanner s n
    let y := t.notices.entries.get n
    (∀ k, k ≠ n → t.notices.entries.get k = u.entries.get k) ∧
    (missing.length ≤ empties.length →
      t = { s with notices := { u with
        entries := t.notices.entries, cache := t.notices.cache
        fetchList := u.fetchList ++ empties.take missing.length } } ∧
      y.entries.map (fun z => z.1) = codeSet x.fields ∧ y.fields = x.fields ∧ y.seq = x.seq ∧
      (∀ z ∈ y.entries,
        ((u.cache.get z.2).fill.code = some z.1 →
          t.notices.cache.get z.2 = { u.cache.get z.2 with refs := (u.cache.get z.2).refs + 1 }) ∧
        ((u.cache.get z.2).fill = .empty → t.notices.cache.get z.2 = { fill := .filling z.1, refs := 1 }) ∧
        ((u.cache.get z.2).fill.code = some z.1 ∨ (u.cache.get z.2).fill = .empty)) ∧
      (∀ (j : Nat) (c : Byte) (e : CacheIx), missing[j]? = some c → empties[j]? = some e → (c, e) ∈ y.entries) ∧
      (∀ e, e ∉ y.entries.map (fun z => z.2) → t.notices.cache.get e = u.cache.get e) ∧
      ((∀ z ∈ y.entries, (t.notices.cache.get z.2).fill.isHeld = true) → y.state = .bannerReady) ∧
      ((∃ z ∈ y.entries, (t.notices.cache.get z.2).fill.isHeld = false) → y.state = .bannerLoading)) ∧
    (empties.length < missing.length →
      t = { s with
        notices := { u with entries := t.notices.entries, waitList := t.notices.waitList }, reports := t.reports } ∧
      y = { x with state := .bannerWaiting, entries := [] } ∧
      (∃ a b, u.waitList.filter (fun k => k != n) = a ++ b ∧ t.notices.waitList = a ++ n :: b ∧
        let stands := fun k => x.fields.priority < (u.entries.get k).fields.priority ∨
          (x.fields.priority = (u.entries.get k).fields.priority ∧ (u.entries.get k).seq.toNat ≤ x.seq.toNat)
        (∀ k ∈ a, stands k) ∧ ∀ k, b.head? = some k → ¬stands k) ∧
      (acceptsReports s 1 → t.reports.queue = s.reports.queue ++ [report .bannerWaiting s.clock.now (le8 n.val)
        (le16 missing.length ++ le16 empties.length)]))) ∧
  ∀ s : State,
    let t := walkWaitList s
    t = { s with notices := { s.notices with
      entries := t.notices.entries, cache := t.notices.cache, waitList := t.notices.waitList
      fetchList := t.notices.fetchList } } ∧
    t.notices.waitList.Sublist s.notices.waitList ∧
    (∀ n, s.notices.waitList.head? = some n → bannerFits s.notices n = true → n ∉ t.notices.waitList) ∧
    (∀ n ∈ s.notices.waitList, n ∉ t.notices.waitList →
      (t.notices.entries.get n).state = .bannerLoading ∨ (t.notices.entries.get n).state = .bannerReady) ∧
    (∀ n ∈ t.notices.waitList, bannerFits t.notices n = false) ∧
    ∀ n, n ∉ s.notices.waitList ∨ n ∈ t.notices.waitList → t.notices.entries.get n = s.notices.entries.get n

/-- REPORT_WRITE_COMPLETE (R167, R169): an OK record write takes the record from the queue, advances P and marks the
header, and an OK header write changes nothing. A faulted record write drops the record and keeps P; both faults set the
overflow flag, marking the header when it was clear, with no MEMORY_FAULT. Then the containment mode acts (R172): REPORT
changes nothing else; QUIET takes RUNNING to QUIET (R107, R173), and QUIET to TRANSPARENT, which TRANSPARENT enters from
both (R174). That this entry drops the plans of forwarded reads and empties the header queue, also of the header just
marked, is the reading of log 25. -/
def Obligations.ReportWriteCompleted : Prop :=
  ∀ (s : State) (m : MemTag) (u : TagUse), u.isWrite = true → s.active = true →
    (liveOwn s m u .reportRecord → ∃ t, exec (.reportWriteComplete m .ok) s = .next t ∧ onlyFreed s t m ∧
      t = { s with
        traffic := t.traffic, offers := t.offers
        reports := { s.reports with
          queue := s.reports.queue.tail, p := s.reports.p + 1, headerQueued := true } }) ∧
    (liveOwn s m u .reportHeader → ∃ t, exec (.reportWriteComplete m .ok) s = .next t ∧ onlyFreed s t m ∧
      t = { s with traffic := t.traffic, offers := t.offers }) ∧
    ∀ record : Bool, liveOwn s m u (if record then .reportRecord else .reportHeader) →
      let faulted : State := { s with
        traffic := { s.traffic with tags := setAt s.traffic.tags m none }
        reports := { s.reports with
          queue := if record then s.reports.queue.tail else s.reports.queue, overflow := true
          headerQueued := s.reports.headerQueued || !s.reports.overflow } }
      ∃ t, exec (.reportWriteComplete m .fault) s = .next t ∧
        (s.setup.mode = .report → t = { faulted with offers := t.offers }) ∧
        (s.setup.mode = .quiet → s.part = .running → quietFrom faulted t) ∧
        (s.setup.mode = .transparent ∨ (s.setup.mode = .quiet ∧ s.part = .quiet) → transparentFrom faulted t)

/-- SETUP_READ_COMPLETE, or the timeout of a read of the Setup Block, which is a read that faulted and whose tag stays
reserved (R159, R171, R176, R177, R181): before the last of the 32 reads has ended nothing is decided (log 11). With the
last, in LOADING, a block that passes the checks takes the part to BUILDING with the clock started at the initial time
(that no time set is pending then is the choice of log 49), the ranges, the setup values and the last-seen command words
taken, no build read issued, and nothing else changed: streams at their power-on values stay there.
In RESTARTING it lets the restart go on: that it changes nothing but the stage, and that the ranges, the setup values,
the clock's step and the last-seen command words are taken only by the second RESTART_RELOAD, is the reading of log 12.
A block that fails them, or a read that faulted, takes the part to TRANSPARENT with the Setup Block range alone and no
report; lobby seconds then take a pending time set and the withheld seconds (R63; also on a clock that no load has
started: log 49). That a refusal keeps the rest as it stood is the choice of log 52, the setup values among it the
reading of log 34 and the last-seen command words that of log 45; that the entry to TRANSPARENT drops the plans of
forwarded reads and empties the report header queue is that of log 25. The checks are those of R177. The values taken
are the fields of R183, clamped as R177 and R60 say: lead and grace to 3600, gap to 10–1000, the origin modulo 1440, the
NCO step to 1–2^31. -/
def Obligations.SetupReadTaken : Prop :=
  (∀ (s : State) (m : MemTag) (u : TagUse) (k : Nat) (c : Instr) (res : ReadResult) (ended : State),
    readEnds s m u (.setupRead k) (fun st data => .setupReadComplete m st data) c res ended →
    s.part = .loading ∨ s.part = .restarting → s.start.stage = .setupReads →
    let taken := s.start.setupGot ++ [(k, res)]
    ∃ t, exec c s = .next t ∧
      (s.start.setupGot.length < 31 →
        t = { ended with offers := t.offers, start := { s.start with setupGot := taken } }) ∧
      (s.start.setupGot.length = 31 →
        (∀ bs, joinReads taken 32 = some bs → setupOk s.setupBase bs = true →
          (s.part = .loading →
            t = { ended with
              part := .building, decoder := .all, setup := setupOf bs, clock := clockStarted s.clock bs
              start := buildBegun s.start (u8 bs 6 != 0)
              commit := { s.commit with lastRestart := byteAt bs 3968, lastTimeSet := byteAt bs 3980 }
              trailers := { s.trailers with streams := t.trailers.streams }, offers := t.offers } ∧
            ∀ i, s.trailers.streams.get i = .empty → t.trailers.streams.get i = .empty) ∧
          (s.part = .restarting → t = { ended with
            offers := t.offers
            start := { s.start with stage := .accepted bs, setupIssued := 0, setupGot := [] } })) ∧
        ((∀ bs, joinReads taken 32 = some bs → setupOk s.setupBase bs = false) →
          t.attnN = false ∧ t.reports.queue = s.reports.queue ∧
          transparentFrom { ended with
            decoder := .setupOnly
            clock := { s.clock with
              now := s.clock.pendingSet.getD s.clock.now + BitVec.ofNat 20 s.clock.withheld
              withheld := 0, pendingSet := none }
            start := { s.start with stage := .wait, setupIssued := 0, setupGot := [] } } t))) ∧
  -- the checks of R177
  (∀ (base : Nat) (bs : List Byte),
    let c := setupOf bs
    setupOk base bs = true ↔
      u32 bs 0 = 0x34325752 ∧ u8 bs 4 = 1 ∧ (u8 bs 5 = 1 ∨ u8 bs 5 = 2 ∨ u8 bs 5 = 3) ∧
      (∀ w : Window, c.windows.base w % w.size = 0 ∧ c.windows.base w + w.size ≤ 4294967296) ∧
      (∀ p : PanelIx,
        let g := c.panels.get p
        g.enabled = true → g.base % 128 = 0 ∧ 16 ≤ g.width ∧ g.width ≤ 1920 ∧ g.width % 16 = 0 ∧ 32 ≤ g.height ∧
          g.height ≤ 1088 ∧ g.stride % 128 = 0 ∧ g.width * 4 ≤ g.stride ∧
          g.base + g.height * g.stride ≤ 4294967296) ∧
      (∀ i : StreamIx,
        let d := c.streams.get i
        d.enabled = true → 32 ≤ d.width ∧ d.width ≤ 1920 ∧ d.width % 32 = 0 ∧ 1 ≤ d.height ∧ d.height ≤ 1088 ∧
          d.stride % 128 = 0 ∧ d.width * 4 ≤ d.stride ∧
          ∀ k, d.slots.get k % 128 = 0 ∧ d.slots.get k + d.height * d.stride + 128 ≤ 4294967296) ∧
      ∀ (a i j : Nat) (x y : Nat × Nat),
        (allRanges base c)[i]? = some x → (allRanges base c)[j]? = some y → i ≠ j →
        x.1 ≤ a → a < x.1 + x.2 → y.1 ≤ a → a < y.1 + y.2 → False) ∧
  -- the values of R177 and R183
  ∀ bs : List Byte,
    let c := setupOf bs
    c.windows = { showings := u32 bs 8, journal := u32 bs 12, notices := u32 bs 16, layouts := u32 bs 20
                  text := u32 bs 24, trailers := u32 bs 28, reports := u32 bs 32 } ∧
    (u8 bs 5 = 1 → c.mode = .report) ∧ (u8 bs 5 = 2 → c.mode = .quiet) ∧ (u8 bs 5 = 3 → c.mode = .transparent) ∧
    (stepOf bs).toNat = max 1 (min (u32 bs 36) 2147483648) ∧ c.origin = u16 bs 44 % 1440 ∧
    c.lead = min (u16 bs 46) 3600 ∧ c.grace = min (u16 bs 48) 3600 ∧ c.gap = max 10 (min (u16 bs 50) 1000) ∧
    (∀ p : PanelIx,
      let at' := 128 + 16 * p.val
      c.panels.get p = { enabled := u8 bs at' != 0, width := u16 bs (at' + 2), height := u16 bs (at' + 4)
                         base := u32 bs (at' + 8), stride := u32 bs (at' + 12) }) ∧
    ∀ i : StreamIx,
      let at' := 512 + 32 * i.val
      let d := c.streams.get i
      d.enabled = (u8 bs at' != 0) ∧ d.width = u16 bs (at' + 2) ∧ d.height = u16 bs (at' + 4) ∧
        d.stride = u32 bs (at' + 8) ∧ ∀ k, d.slots.get k = u32 bs (at' + 12 + 4 * k.val)

/-- BUILD_READ_COMPLETE with a FAULT, and OWN_REQUEST_TIMEOUT, of the next read of the build, but for the last (R178,
R171): the records it covered are built as if empty, with last-accepted revision 0, and with no report: showings VACANT,
a journal header tail 0 and lap 1, slots not marked, titles of length 0, and layouts, notices, catalog entries and
rotation tables as they stand empty before the build. The reads are taken in the order of R178 (log 13). -/
def Obligations.BuildReadFaulted : Prop :=
  ∀ (s : State) (m : MemTag) (u : TagUse) (k : Nat) (item : BuildItem),
    liveOwn s m u (.buildRead k) → u.isWrite = false → s.rebuilding = true → s.start.stage = .build →
    buildItem s.start.resume k = some item → k + 1 < buildTotal s.start.resume →
    s.start.buildDone = k → s.start.buildGot = [] →
    let built := fun (t : State) =>
      let kept := { s with
        traffic := t.traffic, commit := { s.commit with revs := t.commit.revs }, offers := t.offers
        start := { s.start with buildDone := k + 1 } }
      let revsOnly := fun (covered : RecordId → Prop) => ∀ r,
        (covered r → t.commit.revs.get r = 0) ∧ (¬covered r → t.commit.revs.get r = s.commit.revs.get r)
      match item with
      | .showings b => t = { kept with seats := t.seats } ∧
          revsOnly (fun r => ∃ i : ShowingIx, r = .showing i ∧ i.val / 2 = b) ∧
          ∀ i : ShowingIx, (i.val / 2 = b → t.seats.entries.get i = .vacant s.clock.now) ∧
            (i.val / 2 ≠ b → t.seats.entries.get i = s.seats.entries.get i)
      | .journal b => t = { kept with
          journal := if b = 0 then { s.journal with tail := 0, lap := .one } else s.journal } ∧ revsOnly fun _ => False
      | .titles b => t = { kept with roster := { s.roster with titles := t.roster.titles } } ∧
          revsOnly (fun r => ∃ i : TitleIx, r = .title i ∧ i.val / 4 = b) ∧
          ∀ i : TitleIx, (i.val / 4 = b → t.roster.titles.get i = { text := List.replicate 28 0, length := 0 }) ∧
            (i.val / 4 ≠ b → t.roster.titles.get i = s.roster.titles.get i)
      | .layouts b =>
          if b % 4 = 3 then t = { kept with start := { s.start with buildDone := k + 1, layoutParts := [] } } ∧
            revsOnly fun r => ∃ i : PanelIx, r = .layout i ∧ i.val = b / 4
          else t = { kept with start := { s.start with
              buildDone := k + 1, layoutParts := s.start.layoutParts ++ [.fault] } } ∧ revsOnly fun _ => False
      | .notices b => revsOnly (fun r => ∃ i : NoticeIx, r = .notice i ∧ i.val / 2 = b) ∧
          (b < 15 → t = kept) ∧ ∀ i, i ∉ s.start.posted → t.notices.entries.get i = s.notices.entries.get i
      | .catalog b => t = kept ∧ revsOnly fun r => ∃ i : CatalogIx, r = .catalog i ∧ i.val / 8 = b
      | .rotation b => t = kept ∧ revsOnly fun r => ∃ i : StreamIx, r = .rotation i ∧ i.val / 2 = b
    (∀ data, ∃ t, exec (.buildReadComplete m .fault data) s = .next t ∧ onlyFreed s t m ∧ built t) ∧
    ∀ started, u.holder = .own (.buildRead k) started .live → s.timerLength ≤ s.traffic.cycles - started →
      ∃ t, exec (.ownRequestTimeout m) s = .next t ∧ built t ∧
        t.traffic = { s.traffic with
          tags := setAt s.traffic.tags m (some { u with holder := .own (.buildRead k) started .timedOut }) }

/-- BUILD_READ_COMPLETE answered OK for a block of showings or of the journal (R178; whole blocks in the order of log
13). A showing is built from its record (R37): out of range or of intent VACANT it is VACANT with counts 0; of intent
OPEN or CANCELLED it has the record's four fields, held 0, and sold 0, or under resume the sold read clamped to the
capacity; its phase is CANCELLED, or the end of the chain from the phase now gives, with the PHASE entry of that chain
(R22); the time of last change is now. SHOWING_REFUSED is reported with RANGE, or with RESUME_CLAMP, the sold read and
the capacity. That no hold is live is a premise: SeatLaw has it of every build. Under resume the journal's tail and lap
are those of the header, or 0 and 1 with JOURNAL_BAD, HEADER_RANGE and the values read (slot and showing byte free
values, log 15), and a slot whose marker is the expected one under that tail and lap is marked (R58). The last-accepted
revision of a showing is its revision byte as read (R18). -/
def Obligations.BuildSeatsAndJournalRead : Prop :=
  ∀ (s : State) (m : MemTag) (u : TagUse) (k : Nat) (item : BuildItem) (data : List Byte),
    nextBuildRead s m u k item → data.length = 8 * u.beats →
    (∀ b, item = .showings b → (∀ h, s.holds.get h = none) →
      ∃ t, exec (.buildReadComplete m .ok data) s = .next t ∧ onlyFreed s t m ∧
        t = { builtBase s t k with seats := t.seats, due := t.due, reports := t.reports } ∧
        let inBlock := fun (i : ShowingIx) => i.val / 2 = b
        let now := s.clock.now
        let bytes := fun (i : ShowingIx) => slice data (64 * (i.val % 2)) 64
        let intent := fun i => u8 (bytes i) 2
        let capacity := fun i => u16 (bytes i) 8
        let bad := fun i => 2 < intent i ∨ (intent i ≠ 0 ∧ (63 < u8 (bytes i) 0 ∨ 31 < u8 (bytes i) 1 ∨
          1048576 ≤ u32 (bytes i) 4 ∨ capacity i = 0 ∨ 999 < capacity i))
        let clamped := fun i => intent i ≠ 0 ∧ s.start.resume = true ∧ capacity i < u16 (bytes i) 36
        revsRead s t (fun r => match r with
          | .showing i => if inBlock i then some (byteAt (bytes i) 31) else none
          | _ => none) ∧
        (∀ i, ¬inBlock i → t.seats.entries.get i = s.seats.entries.get i) ∧
        (∀ d, (∀ i, d.key = .phase i → ¬inBlock i) →
          (d ∈ t.due.list ↔ d ∈ s.due.list) ∧ (d ∈ t.due.batch ↔ d ∈ s.due.batch)) ∧
        (∀ i, inBlock i →
          let f := t.seats.entries.get i
          let chain := phaseChain s.setup now f.start (phaseFromNow s.setup now f.start)
          (bad i ∨ intent i = 0 → f = .vacant now) ∧
          (¬bad i → intent i ≠ 0 →
            f.title.val = u8 (bytes i) 0 ∧ f.hall.val = u8 (bytes i) 1 ∧ f.start.toNat = u32 (bytes i) 4 ∧
            f.capacity = capacity i ∧ f.held = 0 ∧ f.left = f.capacity - f.sold ∧ f.changed = now ∧
            f.sold = (if s.start.resume then min (u16 (bytes i) 36) (capacity i) else 0) ∧
            (intent i = 2 → f.phase = .cancelled) ∧
            (intent i = 1 → f.phase = chain.1 ∧ ∀ d, d.key = .phase i →
              (d ∈ t.due.list ++ t.due.batch ↔ ∃ q tm, chain.2 = some (q, tm) ∧
                d = { key := .phase i, target := some q, time := tm })))) ∧
        ∀ i j : ShowingIx, i.val = 2 * b → j.val = 2 * b + 1 → ∀ x y : List Report,
          (∀ n z, (n = i ∧ z = x) ∨ (n = j ∧ z = y) →
            (bad n → z = [report .showingRefused now (le8 n.val) [1]]) ∧
            (¬bad n → clamped n → z = [report .showingRefused now (le8 n.val)
              (5 :: le16 (u16 (bytes n) 36) ++ le16 (capacity n))]) ∧
            (¬bad n → ¬clamped n → z = [])) →
          reportsMade s t (x ++ y)) ∧
    (∀ b, item = .journal b →
      ∃ t, exec (.buildReadComplete m .ok data) s = .next t ∧ onlyFreed s t m ∧
        t = { builtBase s t k with
          journal := { s.journal with tail := t.journal.tail, lap := t.journal.lap, marks := t.journal.marks }
          reports := t.reports, free := t.free } ∧
        revsRead s t (fun _ => none) ∧
        let header := u8 data 0 ≤ 63 ∧ (u8 data 1 = 1 ∨ u8 data 1 = 2)
        (b ≠ 0 ∨ header → t.reports = s.reports ∧ t.free = s.free) ∧
        (b ≠ 0 → t.journal.tail = s.journal.tail ∧ t.journal.lap = s.journal.lap) ∧
        (b = 0 → header → t.journal.tail.val = u8 data 0 ∧ t.journal.lap.code = u8 data 1) ∧
        (b = 0 → ¬header → t.journal.tail = 0 ∧ t.journal.lap = .one ∧
          ∃ x y, reportsMade s t [report .journalBad s.clock.now [x, y] [6, byteAt data 0, byteAt data 1]]) ∧
        ∀ i : JournalIx,
          let at' := 64 + 16 * i.val
          let expected := if t.journal.tail.val ≤ i.val then t.journal.lap.code else 3 - t.journal.lap.code
          t.journal.marks.get i = (s.journal.marks.get i ||
            (at' / 128 == b && u8 data (at' % 128 + 15) == expected)))

/-- BUILD_READ_COMPLETE answered OK for a block of titles, layouts, notices, catalog entries, or of rotation tables but
the last (R178; whole blocks in the order of log 13). A title is the first 28 bytes with the length, 28 at most (R81). A
layout's first three blocks are kept; with the fourth the record is tested, and a valid one becomes the panel's layout,
a refused one leaves the empty one with its report (R95; the line byte as in LayoutHandedOver, logs 15 and 17), and one
with a faulted part is built as if empty. A valid POSTED notice takes its fields and the next post sequence number, with
its expiry (R123); any other leaves its entry, with NOTICE_REFUSED unless it is WITHDRAWN. With the last block the line
notices become LINE_ACTIVE, the banners are tested highest priority first and oldest first, and every NOTICE line is
computed. A valid catalog entry is taken, another keeps its values with CATALOG_REFUSED; a rotation table gives the
stream's 32 phases (R146, R147, R153). The last-accepted revision of each record is its revision byte as read (R18).
That a built layout's shown figures stand as the quantizer leaves them is the reading of log 55. -/
def Obligations.BuildTablesRead : Prop :=
  ∀ (s : State) (m : MemTag) (u : TagUse) (k : Nat) (item : BuildItem) (data : List Byte),
    nextBuildRead s m u k item → data.length = 8 * u.beats →
    ∃ t, exec (.buildReadComplete m .ok data) s = .next t ∧ onlyFreed s t m ∧
      let now := s.clock.now
      (∀ b, item = .titles b →
        let bytes := fun (i : TitleIx) => slice data (32 * (i.val % 4)) 32
        t = { builtBase s t k with roster := { s.roster with titles := t.roster.titles } } ∧
        revsRead s t (fun r => match r with
          | .title i => if i.val / 4 = b then some (byteAt (bytes i) 31) else none
          | _ => none) ∧
        ∀ i : TitleIx, t.roster.titles.get i =
          if i.val / 4 = b then { text := (bytes i).take 28, length := min (u8 (bytes i) 28) 28 }
          else s.roster.titles.get i) ∧
      (∀ b, item = .layouts b →
        let base := { builtBase s t k with start := { s.start with
          buildDone := k + 1, layoutParts := if b % 4 = 3 then [] else s.start.layoutParts ++ [.ok data] } }
        (b % 4 ≠ 3 → t = base ∧ revsRead s t fun _ => none) ∧
        ∀ p : PanelIx, b % 4 = 3 → p.val = b / 4 →
          (∀ x y z, s.start.layoutParts = [.ok x, .ok y, .ok z] →
            let bs := x ++ y ++ z ++ data
            revsRead s t (fun r => if r = .layout p then some (byteAt bs 511) else none) ∧
            (∀ reason, layoutCase s p bs reason → (∀ q, q < reason → ¬layoutCase s p bs q) →
              t = { base with reports := t.reports, free := t.free } ∧ layoutRefused s t p bs reason) ∧
            ((∀ reason, ¬layoutCase s p bs reason) →
              t = { base with roster := t.roster, painter := t.painter } ∧ layoutInstalled s t p bs)) ∧
          (.fault ∈ s.start.layoutParts →
            t = base ∧ revsRead s t fun r => if r = .layout p then some 0 else none)) ∧
      (∀ b, item = .notices b →
        let rec' := fun (n : NoticeIx) => noticeRec (slice data (64 * (n.val % 2)) 64)
        let valid := fun n => n.val / 2 = b ∧ (rec' n).intent = 1 ∧ ((rec' n).kind = 1 ∨ (rec' n).kind = 2) ∧
          1 ≤ (rec' n).length ∧ (rec' n).length ≤ 48 ∧ (rec' n).priority ≤ 7 ∧ (rec' n).mask ≠ 0
        let made : List NoticeIx := (List.finRange 32).filter fun n => decide (valid n)
        let refused : List Report := ((List.finRange 32).filter fun n =>
            decide (n.val / 2 = b ∧ ¬valid n ∧ (rec' n).intent ≠ 2)).map fun n =>
          let r := rec' n
          report .noticeRefused now (le8 n.val)
            (if r.intent ≠ 1 then le8 1 ++ le8 r.intent
             else if r.kind ≠ 1 ∧ r.kind ≠ 2 then le8 2 ++ le8 r.kind
             else if r.length = 0 ∨ 48 < r.length then le8 3 ++ le8 r.length
             else if 7 < r.priority then le8 4 ++ le8 r.priority else le8 5 ++ le24 0)
        revsRead s t (fun r => match r with
          | .notice n => if n.val / 2 = b then some (byteAt (slice data (64 * (n.val % 2)) 64) 63) else none
          | _ => none) ∧
        -- `v` is the part once the records of the block have been taken
        ∃ v : State,
          v = { builtBase s t k with
            start := { s.start with buildDone := k + 1, posted := s.start.posted ++ made }
            notices := { s.notices with
              entries := v.notices.entries, counter := s.notices.counter + BitVec.ofNat 32 made.length }
            due := v.due, reports := v.reports } ∧
          (∀ n, (valid n → v.notices.entries.get n =
            { state := .idle, entries := [], seq := s.notices.counter + BitVec.ofNat 32 (made.idxOf n + 1)
              fields := { text := (rec' n).text, kind := if (rec' n).kind = 1 then .line else .banner
                          priority := (rec' n).priority, length := (rec' n).length, mask := (rec' n).mask
                          lifetime := (rec' n).lifetime } }) ∧
            (¬valid n → v.notices.entries.get n = s.notices.entries.get n)) ∧
          (∀ n d, d.key = .notice n → valid n → (rec' n).lifetime ≠ 0 →
            (d ∈ v.due.list ++ v.due.batch ↔
              d = { key := .notice n, target := none, time := now + BitVec.ofNat 20 (rec' n).lifetime })) ∧
          (∀ d, (∀ n, d.key = .notice n → ¬valid n ∨ (rec' n).lifetime = 0) →
            (d ∈ v.due.list ↔ d ∈ s.due.list) ∧ (d ∈ v.due.batch ↔ d ∈ s.due.batch)) ∧
          reportsMade s v refused ∧
          (b < 15 → t = v) ∧
          (b = 15 →
            let kindOf := fun n => (v.notices.entries.get n).fields.kind
            let lit : State := { v with notices := { v.notices with entries := tab fun n =>
              if n ∈ v.start.posted ∧ (kindOf n = NoticeKind.line) then
                { v.notices.entries.get n with state := .lineActive } else v.notices.entries.get n } }
            ∃ order : List NoticeIx,
              order.Perm (v.start.posted.filter fun n => kindOf n == .banner) ∧
              order.Pairwise (fun x y =>
                let a := v.notices.entries.get x
                let c := v.notices.entries.get y
                c.fields.priority < a.fields.priority ∨
                  (a.fields.priority = c.fields.priority ∧ a.seq.toNat ≤ c.seq.toNat)) ∧
              t = { order.foldl tryBanner lit with roster := t.roster, painter := t.painter, offers := t.offers } ∧
              (∀ p, linesShown t p fun kind => kind = .notice) ∧
              t.roster = { s.roster with targets := t.roster.targets } ∧
              (∀ r : CellRef, (s.line r.panel r.line).kind ≠ .notice →
                cellAt t.roster.targets r = cellAt s.roster.targets r) ∧
              offeredByTarget s t fun r => cellAt t.roster.targets r ≠ cellAt s.roster.targets r)) ∧
      (∀ b, item = .catalog b →
        let bytes := fun (i : CatalogIx) => slice data (16 * (i.val % 8)) 16
        let detail := fun i => if 1 < u8 (bytes i) 0 then le8 1 ++ le8 (u8 (bytes i) 0)
          else if 63 < u8 (bytes i) 1 ∧ u8 (bytes i) 1 < 255 then le8 2 ++ le8 (u8 (bytes i) 1)
          else le8 3 ++ le16 (u16 (bytes i) 2)
        let valid := fun i => u8 (bytes i) 0 ≤ 1 ∧ (u8 (bytes i) 1 ≤ 63 ∨ u8 (bytes i) 1 = 255) ∧
          1 ≤ u16 (bytes i) 2 ∧ u16 (bytes i) 2 ≤ 16383
        t = { builtBase s t k with
          trailers := { s.trailers with catalog := t.trailers.catalog }, reports := t.reports } ∧
        revsRead s t (fun r => match r with
          | .catalog i => if i.val / 8 = b then some (byteAt (bytes i) 15) else none
          | _ => none) ∧
        (∀ i, (i.val / 8 = b → valid i → t.trailers.catalog.get i =
            { enabled := u8 (bytes i) 0 == 1, linked := indexOrNone 64 (u8 (bytes i) 1), frames := u16 (bytes i) 2 }) ∧
          (i.val / 8 ≠ b ∨ ¬valid i → t.trailers.catalog.get i = s.trailers.catalog.get i)) ∧
        reportsMade s t (((List.finRange 48).filter fun i => decide (i.val / 8 = b ∧ ¬valid i)).map fun i =>
          report .catalogRefused now (le8 i.val) (detail i))) ∧
      ∀ b, item = .rotation b →
        let bytes := fun (i : StreamIx) => slice data (64 * (i.val % 2)) 64
        t = { builtBase s t k with trailers := { s.trailers with rotation := t.trailers.rotation } } ∧
        revsRead s t (fun r => match r with
          | .rotation i => if i.val / 2 = b then some (byteAt (bytes i) 63) else none
          | _ => none) ∧
        ∀ i : StreamIx,
          (i.val / 2 ≠ b → t.trailers.rotation.get i = s.trailers.rotation.get i) ∧
          (i.val / 2 = b → ∀ q : RotationIx,
            (u8 (bytes i) q.val < 48 → ((t.trailers.rotation.get i).get q).map (·.val) = some (u8 (bytes i) q.val)) ∧
            (48 ≤ u8 (bytes i) q.val → (t.trailers.rotation.get i).get q = none))

/-- The last read of a build, whether it was answered OK or FAULT or has timed out, which is a FAULT and leaves its tag
reserved (R159, R171, R178, R179): the part enters RUNNING, with READY raised after what the build reported, and every
record marked for write-back. Every enabled stream is then cued by a pick, in stream order, with its report (R151,
R149), from the rotation tables as the read leaves them: the last two taken from it when it is OK (R147), as they stood
when it is not. A pending time set is then taken, with its TIME_SET report (R71, R72; the record's own time is the
choice of log 54), and its jump fires the entries it passes or moves them (R73, R74). The rosters are computed and the
CLOCK lines show the time, and so they do without a set when a withheld second is a multiple of 60 (R70); otherwise no
target changes. No cell of another kind of line changes its target, each changed cell is offered, and of the commit
state only the revisions read and the marks for write-back are new. The withheld seconds follow, of which there are 255
at most (R63): each makes a batch of the entries due at it, in the order of the seconds. That all of them are taken
before a firing is handed on is the choice of log 53, and that a completed second not yet taken still waits that of log
4. When room runs out the earliest of the reports are kept (R166). If the gap condition holds, the gap timer starts
(R46). That the law of the cache and that of the Due List hold from here on is stated by CacheAndDueLawsStand. -/
def Obligations.RunningEntered : Prop :=
  ∀ (s : State) (m : MemTag) (u : TagUse) (k : Nat) (c : Instr) (res : ReadResult) (ended : State),
    readEnds s m u (.buildRead k) (fun st data => .buildReadComplete m st data) c res ended → s.rebuilding = true →
    s.start.stage = .build → k + 1 = buildTotal s.start.resume → s.start.buildDone = k → s.start.buildGot = [] →
    let old := s.clock.now
    let set := s.clock.pendingSet.getD old
    let seconds := s.clock.withheld
    ∃ t, exec c s = .next t ∧ t.traffic = ended.traffic ∧
      t.part = .running ∧ t.start.stage = .wait ∧
      t.clock = { s.clock with
        now := set + BitVec.ofNat 20 seconds, withheld := 0, pendingSet := none
        sub := if s.clock.pendingSet.isSome then 0 else s.clock.sub } ∧
      t = { s with
        traffic := t.traffic, part := t.part, clock := t.clock, due := t.due, journal := t.journal
        start := { s.start with stage := .wait, buildDone := k + 1 }
        commit := { s.commit with
          revs := t.commit.revs, wbJournal := true
          wbShowings := s.commit.wbShowings ++ (List.finRange 256).filter fun i => decide (i ∉ s.commit.wbShowings)
          wbStreams := s.commit.wbStreams ++ (List.finRange 4).filter fun i => decide (i ∉ s.commit.wbStreams) }
        roster := t.roster, painter := t.painter, reports := t.reports, offers := t.offers
        trailers := { s.trailers with streams := t.trailers.streams, rotation := t.trailers.rotation } } ∧
      -- the boards
      (let follows := fun (r : CellRef) =>
         (s.line r.panel r.line).kind = .clock ∨
           (s.clock.pendingSet.isSome = true ∧ rosterKind (s.line r.panel r.line).kind)
       (∀ r, ¬follows r → cellAt t.roster.targets r = cellAt s.roster.targets r) ∧
         offeredOnTheWay s t fun r => ¬follows r) ∧
      (let rolls := ∃ j, j < seconds ∧ (old + BitVec.ofNat 20 (j + 1)).toNat % 60 = 0
       s.clock.pendingSet = none →
         (rolls → clocksShow t) ∧ (¬rolls → t.roster = s.roster ∧ t.painter = s.painter)) ∧
      (s.clock.pendingSet.isSome = true → t.roster = { s.roster with
        rosters := t.roster.rosters, assign := t.roster.assign, shown := t.roster.shown
        targets := t.roster.targets }) ∧
      (s.clock.pendingSet.isSome = true → clocksShow t ∧ ∀ p,
        t.roster.rosters.get p = rosterOf { t with clock := { t.clock with now := set } } p ∧
        linesShown t p rosterKind ∧
        ∀ l, lineAt t.roster.assign p l =
          if (t.line p l).kind.isRoster then (t.roster.rosters.get p)[(t.line p l).rank]?
          else lineAt s.roster.assign p l) ∧
      (s.clock.pendingSet = none → t.roster = { s.roster with targets := t.roster.targets }) ∧
      (∀ i : StreamIx, i.val < 2 ∨ res = .fault → t.trailers.rotation.get i = s.trailers.rotation.get i) ∧
      (∀ r, (∀ i : StreamIx, 2 ≤ i.val → r ≠ .rotation i) → t.commit.revs.get r = s.commit.revs.get r) ∧
      (∀ i : StreamIx, 2 ≤ i.val →
        (res = .fault → t.commit.revs.get (.rotation i) = 0) ∧
        ∀ data, res = .ok data →
          let bs := slice data (64 * (i.val - 2)) 64
          t.commit.revs.get (.rotation i) = byteAt bs 63 ∧
          ∀ q : RotationIx,
            (u8 bs q.val < 48 → ((t.trailers.rotation.get i).get q).map (·.val) = some (u8 bs q.val)) ∧
            (48 ≤ u8 bs q.val → (t.trailers.rotation.get i).get q = none)) ∧
      -- what the pending time set does to the Due List, and then the withheld seconds
      (let d := distance old set
       let moved : DueList := if s.clock.pendingSet = none then s.due else if d < 524288 then
          { list := s.due.list.filter fun x => d < distance old x.time
            batch := s.due.batch ++ s.due.list.filter fun x => distance old x.time ≤ d }
        else { s.due with list := s.due.list.map fun x =>
          { x with time := set + BitVec.ofNat 20 (min (distance old x.time + (1048576 - d)) 524288) } }
       (seconds ≤ 255 →
        t.due.list = moved.list.filter (fun x => distance set x.time = 0 ∨ seconds < distance set x.time) ∧
        t.due.batch = moved.batch ++ (List.range seconds).flatMap fun j =>
          moved.list.filter fun x => distance set x.time = j + 1) ∧
       let picked := fun i => pick { t with trailers := { t.trailers with streams := s.trailers.streams } } i
       (∀ i,
         let x := s.trailers.streams.get i
         t.trailers.streams.get i = if (s.setup.streams.get i).enabled then
           { x with cued := some (picked i).item, pointer := (picked i).pointer } else x) ∧
       let made := report .ready old [] [] ::
         (((List.finRange 4).filter fun i => (s.setup.streams.get i).enabled).map (fun i =>
           report .trailerCue old (le8 i.val) (le8 (picked i).item.val ++ [noneOr255 (picked i).phase])) ++
         if s.clock.pendingSet = none then [] else
           [report .timeSet set [] (le24 old.toNat ++ le24 set.toNat ++ le16 (if d < 524288 then
             s.due.list.countP (fun x => distance old x.time ≤ d) else 0))])
       t.reports = { s.reports with
         queue := s.reports.queue ++ made.take s.reports.room, headerQueued := true
         overflow := s.reports.overflow || decide (s.reports.room < made.length) }) ∧
      (let gap := s.journal.marks.get s.journal.tail = false ∧ ∃ i, s.journal.marks.get i = true
       t.journal = { s.journal with gapStart := t.journal.gapStart } ∧ (¬gap → t.journal.gapStart = none) ∧
        (gap → s.journal.gapStart = none → t.journal.gapStart = some s.clock.ticks))

/-- RESTART_RELOAD with no own request outstanding (R181): in a restart in stage 1 the paint slots become FREE (R109),
and it goes on to the reads of the Setup Block. That the places of the slots lose their painting and spoiled marks with
them, with content UNKNOWN and queued like those of an interrupted paint, is the choice of log 52. A restart whose block
was accepted takes its values: the ranges, the setup and the last-seen command words; a running clock takes the step and
keeps the rest, and one that no load has started starts at the initial time (R75; what it keeps of a time set is the
choice of log 49). The owners clear their state: the holds, the Due List, the queues, the cell marks, the passes, and of
the slot records all but those of a stream whose descriptor stays, which lose their latch counts (R154). Every layout,
title, roster, target, catalog entry and rotation table is the empty one of R95 and R153, from which the rebuild starts,
and every seat entry is VACANT with no title's count above 0. The post sequence counter, P, C, the overflow flag and the
report queue stay, with the tail and lap and the last-accepted revisions until they are read, and the rebuild starts
with resume; nothing else changes. That the seat entries, layouts, titles, catalog and rotation tables are cleared with
the owners is the reading of log 14 and that the notices' fields are zeroed its choice; that the turn of the write-back
queues goes on is that of log 8; that the two actions are two commands is the reading of log 12. -/
def Obligations.RestartReloaded : Prop :=
  ∀ s : State, s.resetN = true → s.part = .restarting → ownOutstanding s = false →
    (s.start.stage = .wait → ∃ t, exec .restartReload s = .next t ∧
      t = { s with
        start := { s.start with stage := .setupReads, setupIssued := 0, setupGot := [] }
        painter := t.painter, offers := t.offers } ∧
      t.painter.slots = [] ∧
      (∃ more, t.painter.queue = s.painter.queue ++ more ∧ ∀ r ∈ more, ∃ x ∈ s.painter.slots, x.ref = r) ∧
      ∀ r,
        let m := cellMarks s r
        let n := cellMarks t r
        ((∀ x ∈ s.painter.slots, x.ref ≠ r) → n = m) ∧
        ((∃ x ∈ s.painter.slots, x.ref = r) →
          n = { m with painted := none, painting := false, spoiled := false, queued := n.queued } ∧
          (isCell s r = true → n.queued = true ∨ n.faulted = true ∨
            lineAt t.painter.redraw r.panel r.line = true))) ∧
    (∀ bs, s.start.stage = .accepted bs → ∃ t, exec .restartReload s = .next t ∧
      t = { s with
        decoder := .all, setup := setupOf bs, clock := clockStarted s.clock bs, start := buildBegun s.start true
        commit := { s.commit with
          lastRestart := byteAt bs 3968, lastTimeSet := byteAt bs 3980, queue := [], fetches := []
          fetch := .const .idle, wbShowings := [], wbJournal := false, wbStreams := [] }
        seats := t.seats, holds := t.holds, due := { list := [], batch := [] }
        journal := { s.journal with marks := t.journal.marks, fetch := .none, gapStart := none }
        roster := t.roster, painter := t.painter, notices := t.notices, scan := t.scan, trailers := t.trailers
        reports := { s.reports with headerQueued := false }, offers := t.offers } ∧
      (∀ h, t.holds.get h = none) ∧ (∀ i, t.seats.entries.get i = .vacant 0) ∧
      (∀ k, t.seats.sellable.get k = 0) ∧ (∀ k, t.journal.marks.get k = false) ∧ boardsEmpty t.roster ∧
      t.painter.queue = [] ∧ t.painter.slots = [] ∧ (∀ r, cellMarks t r = .clear) ∧
      (∀ p l, lineAt t.painter.redraw p l = false) ∧
      t.notices.counter = s.notices.counter ∧ t.notices.waitList = [] ∧ t.notices.fetchList = [] ∧
      (∀ n, t.notices.entries.get n = .idle) ∧ (∀ e, t.notices.cache.get e = .empty) ∧
      (∀ p, t.scan.get p = .idle) ∧
      (∀ e, t.trailers.catalog.get e = { enabled := false, linked := none, frames := 1 }) ∧
      (∀ i q, (t.trailers.rotation.get i).get q = none) ∧
      ∀ i, let old := s.trailers.streams.get i
        let new := t.trailers.streams.get i
        new.current = none ∧ new.cued = none ∧ new.remaining = 0 ∧ new.pointer = 0 ∧
        (((setupOf bs).streams.get i).enabled = true → (setupOf bs).streams.get i = s.setup.streams.get i → ∀ k,
          ((old.slots.get k).state = .complete → (old.slots.get k).newest = false → new.slots.get k = .free) ∧
          ((old.slots.get k).state ≠ .complete ∨ (old.slots.get k).newest = true →
            new.slots.get k = { old.slots.get k with latches := 0 })) ∧
        (((setupOf bs).streams.get i).enabled = false ∨ (setupOf bs).streams.get i ≠ s.setup.streams.get i →
          ∀ k, new.slots.get k = .free))

/-! ### Figures and addresses -/

/-- The quantizer (R88). S of F or below is shown exactly, and leaves no shown figure. Above F the shown figure P is
kept while P ≤ S < P + Q + H; otherwise, and when there is none, the figure is R = max(floor(S / Q) × Q, F + 1), and
becomes the shown one. With a filter as R76 clamps it, and a shown figure above F as the rule leaves it, the figure is
never above the seats left, and a rounded one is above F and within Q + H of them. -/
def Obligations.FigureNeverAboveSeatsLeft : Prop :=
  ∀ (f q h n : Nat) (p : Option Nat),
    let g := quantize f q h n p
    let R := max (n / q * q) (f + 1)
    (n ≤ f → g = { value := n, rounded := false, shown := none }) ∧
    (f < n →
      (∀ x, p = some x → x ≤ n → n < x + q + h → g = { value := x, rounded := true, shown := some x }) ∧
      ((∀ x, p = some x → n < x ∨ x + q + h ≤ n) → g = { value := R, rounded := true, shown := some R })) ∧
    (1 ≤ q → (∀ x, p = some x → f < x) →
      g.value ≤ n ∧ (f < n → f < g.value ∧ n < g.value + q + h))

/-- Rosters and what lines show. A panel's roster is the first 16 at most of its eligible showings (R82) by the signed
distance of the start from now, then hall, then index (R83). Its roster lines are assigned from it by their ranks, and
one whose assignment changes loses its shown figure (R84). A line's cells then get their targets: a CLOCK line now as
HH:MM (R90, R91); a NOTICE line the text of the notice at its rank, or spaces (R92); a wide roster line the start as
HH:MM, the title, the hall plus 1 and the seat field, a narrow one the start and the seat field, and a line assigned
none spaces (R86, R87). The seat field is STARTED, SOLD OUT or the quantizer's figure (FigureNeverAboveSeatsLeft), with
+ when it is rounded and Q is above 1, right-aligned in 10 cells (R87, R89). Each cell whose target changed is offered
(R85), and no other line changes. After a change of one of the eight fields of R30, a panel whose hall mask has the
entry's old or new hall (a VACANT entry has none, by the reading of log 22 also no old one) has its roster computed and
every roster line showing its content (R93). -/
def Obligations.RosterAndLineContent : Prop :=
  (∀ (s : State) (p : PanelIx),
    let flt := (s.roster.layouts.get p).filter
    let e := fun (i : ShowingIx) => s.seats.entries.get i
    let eligible := fun i =>
      ((e i).phase = .onSale ∨ (e i).phase = .lastCall ∨ ((e i).phase = .started ∧ flt.inclStarted = true)) ∧
        flt.halls.getLsbD (e i).hall.val = true ∧ (0 < (e i).left ∨ flt.skipSoldOut = false)
    let key := fun i =>
      let d := distance s.clock.now (e i).start
      if d < 524288 then (d : Int) else (d : Int) - 1048576
    let before := fun (i j : ShowingIx) =>
      key i < key j ∨ (key i = key j ∧ ((e i).hall < (e j).hall ∨ ((e i).hall = (e j).hall ∧ i < j)))
    let ranks := rosterOf s p
    ranks.length ≤ 16 ∧ (∀ i ∈ ranks, eligible i) ∧ ranks.Pairwise before ∧
      ∀ j, eligible j → j ∉ ranks → ranks.length = 16 ∧ ∀ i ∈ ranks, before i j) ∧
  (∀ (s : State) (p : PanelIx),
    let t := assignRoster s p
    t = { s with roster := { s.roster with
      rosters := setAt s.roster.rosters p (rosterOf s p), assign := t.roster.assign, shown := t.roster.shown } } ∧
    (∀ q, q ≠ p → t.roster.assign.get q = s.roster.assign.get q ∧ t.roster.shown.get q = s.roster.shown.get q) ∧
    ∀ l,
      let roster := (s.line p l).kind = .rosterWide ∨ (s.line p l).kind = .rosterNarrow
      (roster → lineAt t.roster.assign p l = (rosterOf s p)[(s.line p l).rank]?) ∧
      (¬roster → lineAt t.roster.assign p l = lineAt s.roster.assign p l) ∧
      lineAt t.roster.shown p l =
        if lineAt t.roster.assign p l = lineAt s.roster.assign p l then lineAt s.roster.shown p l else none) ∧
  (∀ (s : State) (p : PanelIx) (l : LineIx),
    let ln := s.line p l
    let t := computeLine s p l
    let bytes := fun (x : List Nat) => x.map (BitVec.ofNat 8)
    let hhmm := fun (time : LobbyTime) =>
      let m := (s.setup.origin + time.toNat / 60) % 1440
      bytes [48 + m / 600, 48 + m / 60 % 10, 58, 48 + m % 60 / 10, 48 + m % 10]
    let inPair := fun (pair : PairIx) (x : List Byte) => x.map fun c => ({ code := c, pair := pair } : Target)
    let spaces := fun (n : Nat) => List.replicate n (32 : Byte)
    let shows := fun (content : List Target) => ∀ c : CellIx, c.val < ln.cells →
      content[c.val]? = some (cellAt t.roster.targets { panel := p, line := l, cell := c })
    t = { s with
      roster := { s.roster with targets := t.roster.targets, shown := t.roster.shown }, painter := t.painter } ∧
    (∀ r : CellRef, r.panel ≠ p ∨ r.line ≠ l ∨ ln.cells ≤ r.cell.val →
      cellAt t.roster.targets r = cellAt s.roster.targets r) ∧
    (∀ q k, q ≠ p ∨ k ≠ l → lineAt t.roster.shown q k = lineAt s.roster.shown q k) ∧
    (ln.kind ≠ .rosterWide → ln.kind ≠ .rosterNarrow → lineAt t.roster.shown p l = lineAt s.roster.shown p l) ∧
    offeredByTarget s t (fun r => cellAt t.roster.targets r ≠ cellAt s.roster.targets r) ∧
    (ln.kind = .clock → shows (inPair ln.normal (hhmm s.clock.now))) ∧
    (ln.kind = .notice →
      ((lineRanking s.notices p)[ln.rank]? = none → shows (inPair ln.normal (spaces ln.width))) ∧
      ∀ n, (lineRanking s.notices p)[ln.rank]? = some n →
        let f := (s.notices.entries.get n).fields
        shows (inPair (if 6 ≤ f.priority then ln.alt else ln.normal)
          ((f.text.take (min f.length ln.width) ++ spaces ln.width).take ln.width))) ∧
    (ln.kind = .rosterWide ∨ ln.kind = .rosterNarrow →
      (lineAt s.roster.assign p l = none → lineAt t.roster.shown p l = lineAt s.roster.shown p l ∧
        shows (inPair ln.normal (spaces ln.cells))) ∧
      ∀ i, lineAt s.roster.assign p l = some i →
        let e := s.seats.entries.get i
        let flt := (s.roster.layouts.get p).filter
        let g := quantize flt.f flt.q flt.h e.left (lineAt s.roster.shown p l)
        let v := g.value
        let digits := if v < 10 then [48 + v] else if v < 100 then [48 + v / 10, 48 + v % 10]
          else [48 + v / 100 % 10, 48 + v / 10 % 10, 48 + v % 10]
        -- the seat field's text and pair, and the shown figure after it
        let field : List Byte × PairIx × Option Nat :=
          if e.phase = .started then (bytes [83, 84, 65, 82, 84, 69, 68], ln.started, none)
          else if e.left = 0 then (bytes [83, 79, 76, 68, 32, 79, 85, 84], ln.soldOut, none)
          else (bytes (digits ++ (if g.rounded = true ∧ 1 < flt.q then [43] else []) ++ [32, 76, 69, 70, 84]),
            if e.phase = .lastCall then ln.alt else ln.normal, g.shown)
        let seats := inPair field.2.1 (spaces (10 - field.1.length) ++ field.1)
        let title := s.roster.titles.get e.title
        let hall := e.hall.val + 1
        lineAt t.roster.shown p l = field.2.2 ∧
        (ln.kind = .rosterNarrow → shows (inPair ln.normal (hhmm e.start ++ [32]) ++ seats)) ∧
        (ln.kind = .rosterWide → shows (inPair ln.normal (hhmm e.start ++ [32] ++
          (title.text.take title.length ++ spaces 28).take 28 ++ [32] ++
          bytes (if hall < 10 then [32, 48 + hall] else [48 + hall / 10, 48 + hall % 10]) ++ [32]) ++ seats)))) ∧
  ∀ (s : State) (i : ShowingIx) (x : Seat),
    let e := s.seats.entries.get i
    let t := changeSeat s i x
    let covers := fun (p : PanelIx) (y : Seat) =>
      y.phase ≠ .vacant ∧ (s.roster.layouts.get p).filter.halls.getLsbD y.hall.val = true
    boardsFollow s t (fun p => { e with changed := x.changed } ≠ x ∧ (covers p e ∨ covers p x)) rosterKind ∧
      t.seats.entries.get i = { x with changed := (t.seats.entries.get i).changed } ∧
      (x.changed = e.changed → seatChanged s t i)

/-- Under an accepted Setup Block no address lies in two of the ranges of the windows, the Setup Block, the enabled
panels' frames and the enabled streams' slots with their tag blocks (R2, R177), and the class of an address follows from
the range it lies in (R1); before a load it is PASS everywhere, and after a refused one only the Setup Block range is
held. In RUNNING and QUIET the commit record of a write holds the commit bytes and observed fields that it enables (R6
to R11): the revision bytes of the records in the windows, the lap markers, the consumer index and the overflow byte,
the two command words and the frame tag; in BUILDING and RESTARTING the command words and the frame tag alone, and in
TRANSPARENT the restart word alone (R16, R17). A record stands in ascending address order (R6). A read records nothing.
-/
def Obligations.AddressClassesAndCommitBytes : Prop :=
  (∀ (base : Nat) (bs : List Byte), setupOk base bs = true →
    ∀ (a i j : Nat) (x y : Nat × Nat),
      (allRanges base (setupOf bs))[i]? = some x → (allRanges base (setupOf bs))[j]? = some y → i ≠ j →
      x.1 ≤ a → a < x.1 + x.2 → y.1 ≤ a → a < y.1 + y.2 → False) ∧
  (∀ (s : State) (a : Nat),
    (s.decoder = .none → classify s a = .pass) ∧
    (s.decoder = .setupOnly → classify s a =
      if s.setupBase ≤ a ∧ a < s.setupBase + 4096 then .setup (a - s.setupBase) else .pass) ∧
    (∀ bs, s.decoder = .all → s.setup = setupOf bs → setupOk s.setupBase bs = true →
      let c := s.setup
      (∀ w : Window, c.windows.base w ≤ a → a < c.windows.base w + w.size →
        let off := a - c.windows.base w
        let used := match w with
          | .showings => True
          | .journal => off < 1088
          | .notices => True
          | .layouts => off < 12288
          | .text => off < 18432
          | .trailers => off < 768 ∨ (1024 ≤ off ∧ off < 1280) ∨ (2048 ≤ off ∧ off < 2112)
          | .reports => off < 1088
        (used → classify s a = .windowRecord w off) ∧ (¬used → classify s a = .windowUnused w)) ∧
      (s.setupBase ≤ a → a < s.setupBase + 4096 → classify s a = .setup (a - s.setupBase)) ∧
      (∀ p : PanelIx,
        let g := c.panels.get p
        g.enabled = true → g.base ≤ a → a < g.base + g.height * g.stride →
          classify s a = .panelFrame p ((a - g.base) / g.stride) ((a - g.base) % g.stride)) ∧
      (∀ (i : StreamIx) (k : FrameIx),
        let d := c.streams.get i
        let b := d.slots.get k
        let e := b + d.height * d.stride
        d.enabled = true →
          (b ≤ a → a < e → classify s a = .slotPixels i k ((a - b) / d.stride) ((a - b) % d.stride)) ∧
          (e ≤ a → a < e + 128 → classify s a = .slotTag i k)) ∧
      ((∀ (j : Nat) (x : Nat × Nat), (allRanges s.setupBase c)[j]? = some x → a < x.1 ∨ x.1 + x.2 ≤ a) →
        classify s a = .pass))) ∧
  ∀ (s : State) (cls : ReqClass) (b : Burst),
    -- the write enables byte `at'` of its range with value `v`; `off` is the place of the burst's first byte
    let writes := fun (off at' : Nat) (v : Byte) =>
      ∃ j, j < 8 * b.beats ∧ off + j = at' ∧ laneAt b (b.addr.toNat + j) = some v
    let seen := fun (x : CommitItem) => match x with
      | .revision r v => s.active = true ∧ ∃ w off, cls = .windowRecord w off ∧ (revisionPlace r).1 = w ∧
          writes off (revisionPlace r).2 v
      | .lap i v => s.active = true ∧ ∃ off, cls = .windowRecord .journal off ∧ writes off (64 + 16 * i.val + 15) v
      | .consumer v => s.active = true ∧ ∃ off, cls = .windowRecord .reports off ∧ writes off 8 v
      | .overflow v => s.active = true ∧ ∃ off, cls = .windowRecord .reports off ∧ writes off 1 v
      | .restart v => s.part ≠ .loading ∧ ∃ off, cls = .setup off ∧ writes off 3968 v
      | .timeSet v value => (s.active = true ∨ s.rebuilding = true) ∧ ∃ off j, cls = .setup off ∧ j < 8 * b.beats ∧
          off + j = 3980 ∧ laneAt b (b.addr.toNat + j) = some v ∧ value = lanesAt b (b.addr.toNat + j - 4) 4
      | .tag i k a value => (s.active = true ∨ s.rebuilding = true) ∧ cls = .slotTag i k ∧ a = tagAddr s i k ∧
          (laneAt b (a + 7)).isSome = true ∧ value = lanesAt b a 8
    (b.isWrite = true → ∀ x, x ∈ recordedItems s cls b ↔ seen x) ∧
    (recordedItems s cls b).Pairwise (fun x y => itemPlace x < itemPlace y) ∧
    (b.isWrite = false → recordedItems s cls b = [])

/-! ### Laws -/

/-- The laws of tags, capacities, offers, sellable counts, seats, cells, trailer slots, the glyph cache and the Due List
hold of the part after reset, the last two as StandingLaws has them. -/
def Obligations.LawsHoldAtReset : Prop :=
  TagLaw State.reset ∧ CapacityLaw State.reset ∧ OfferLaw State.reset ∧ SellableLaw State.reset ∧
    SeatLaw State.reset ∧ CellLaw State.reset ∧ SlotLaw State.reset ∧ CacheLaw State.reset ∧ DueLaw State.reset ∧
    StandingLaws State.reset

/-- Every step keeps the law of tags and blocks (R158, R162); and a request that a step issues, read or write, takes a
free tag and goes to a block to which no write is outstanding (R162). -/
def Obligations.TagLawKept : Prop :=
  (∀ s t, TagLaw s → step s = .next t → TagLaw t) ∧
  ∀ s t, step s = .next t → ∃ new, t.memOut = s.memOut ++ new ∧ ∀ q ∈ new,
    s.traffic.tags.get q.tag = none ∧
      ∀ m u, s.traffic.tags.get m = some u → u.isWrite = true → blockOf u.addr ≠ blockOf q.burst.addr

/-- Every step keeps the law of capacities (R61, R63, R96, R102, R157, R163). -/
def Obligations.CapacityLawKept : Prop := ∀ s t, CapacityLaw s → step s = .next t → CapacityLaw t

/-- Every step keeps the law of offers: each request offered may be, and the requesters keep their limits, four record
fetches, one write-back, one tail fetch, four glyph fetches and one report write (R12, R15, R42, R119, R162, R167; one
report write at a time is the reading of log 33, and what has timed out counts no longer by log 51). -/
def Obligations.OfferLawKept : Prop := ∀ s t, OfferLaw s → step s = .next t → OfferLaw t

/-- Every step keeps the law of sellable counts (R31), and every step keeps the law of seats (R20, R28, R54). -/
def Obligations.SeatLawsKept : Prop :=
  (∀ s t, SellableLaw s → step s = .next t → SellableLaw t) ∧ ∀ s t, SeatLaw s → step s = .next t → SeatLaw t

/-- Every step keeps the law of cells (R96): a stale cell is queued, painting, faulted, or on a line marked
redraw-pending, and the queue and the queued marks agree. -/
def Obligations.CellLawKept : Prop := ∀ s t, CellLaw s → step s = .next t → CellLaw t

/-- Every step keeps the law of trailer slots and passes (R125, R140, R141): a slot's latch count is the number of
passes that latched it, and an IDLE panel has no latch and a stopped idle timer. -/
def Obligations.SlotLawKept : Prop := ∀ s t, SlotLaw s → step s = .next t → SlotLaw t

/-- Every step between states of RUNNING and QUIET keeps the law of the banner glyph cache (R116 to R118): an entry's
count is the number of loading and ready banners and of pass latches that refer to it. -/
def Obligations.CacheLawKept : Prop :=
  ∀ s t, s.active = true → t.active = true → CacheLaw s → step s = .next t → CacheLaw t

/-- Every step between states of RUNNING and QUIET keeps the law of the Due List (R65, R66, R68): one entry for each
expected event and no other, and every entry of the list pending, nearest first. -/
def Obligations.DueLawKept : Prop :=
  ∀ s t, s.active = true → t.active = true → DueLaw s → step s = .next t → DueLaw t

/-- Every step keeps the law of the glyph cache and that of the Due List standing, from reset on: with nothing placed
they hold while RESET_N is low and in LOADING; a load that is accepted and a warm restart begin a build with them, each
build read keeps them, with the notices posted so far (R37, R123), and the entry to RUNNING gives them to RUNNING and
QUIET (R65, R116, R178, R179). That the owners clear their state at a restart's second RESTART_RELOAD is the reading of
logs 12 and 14, and that the build reads blocks in table order the choice of log 13. -/
def Obligations.CacheAndDueLawsStand : Prop := ∀ s t, StandingLaws s → step s = .next t → StandingLaws t
end

