-- ==== Sys2Proof/Laws/Tables.lean ====
section
/-! SUPPORT. Reading a table after it has been set, changed or mapped, and the lists that the machine keeps in order. -/

namespace Sys2Proof.Machine

/-! ### Tables -/

variable {n : Nat} {α β : Type}

/-- Two tables are equal when they agree at every place. -/
theorem table_ext {v w : Vector α n} (h : ∀ i, v.get i = w.get i) : v = w := by
  apply Vector.ext
  intro i hi
  have := h ⟨i, hi⟩
  simpa [Vector.get_eq_getElem] using this

@[simp] theorem get_tab (f : Fin n → α) (i : Fin n) : (tab f).get i = f i := by
  simp [tab, Vector.get_eq_getElem]

@[simp] theorem get_replicate (a : α) (i : Fin n) : (Vector.replicate n a).get i = a := by
  simp [Vector.get_eq_getElem]

/-- A place read after a place has been set. -/
theorem get_setAt (v : Vector α n) (i j : Fin n) (a : α) : (setAt v i a).get j = if j = i then a else v.get j := by
  simp only [setAt, Vector.get_eq_getElem, Vector.getElem_set, Fin.ext_iff, eq_comm]

@[simp] theorem get_setAt_self (v : Vector α n) (i : Fin n) (a : α) : (setAt v i a).get i = a := by
  simp [get_setAt]

@[simp] theorem get_setAt_ne (v : Vector α n) {i j : Fin n} (h : j ≠ i) (a : α) : (setAt v i a).get j = v.get j := by
  simp [get_setAt, h]

/-- A place read after a place has been changed. -/
theorem get_modAt (v : Vector α n) (i j : Fin n) (f : α → α) :
    (modAt v i f).get j = if j = i then f (v.get i) else v.get j := get_setAt v i j _

@[simp] theorem get_modAt_self (v : Vector α n) (i : Fin n) (f : α → α) : (modAt v i f).get i = f (v.get i) := by
  simp [get_modAt]

@[simp] theorem get_modAt_ne (v : Vector α n) {i j : Fin n} (h : j ≠ i) (f : α → α) :
    (modAt v i f).get j = v.get j := by
  simp [get_modAt, h]

@[simp] theorem get_mapTab (v : Vector α n) (f : α → β) (i : Fin n) : (mapTab v f).get i = f (v.get i) := by
  simp [mapTab]

@[simp] theorem setAt_setAt (v : Vector α n) (i : Fin n) (a b : α) : setAt (setAt v i a) i b = setAt v i b := by
  apply table_ext; intro j; simp only [get_setAt]; split <;> rfl

@[simp] theorem setAt_get (v : Vector α n) (i : Fin n) : setAt v i (v.get i) = v := by
  apply table_ext; intro j; simp only [get_setAt]; split
  · next h => rw [h]
  · rfl

@[simp] theorem modAt_setAt (v : Vector α n) (i : Fin n) (a : α) (f : α → α) :
    modAt (setAt v i a) i f = setAt v i (f a) := by
  simp [modAt]

/-! ### Tables of lines and of cells -/

theorem lineAt_setLine (m : Vector (Vector α 16) 24) (p q : PanelIx) (l k : LineIx) (a : α) :
    lineAt (setLine m p l a) q k = if q = p ∧ k = l then a else lineAt m q k := by
  simp only [lineAt, setLine, get_setAt]
  by_cases h : q = p
  · subst h; simp [get_setAt]
  · simp [h]

theorem cellAt_setCell (m : Vector (Vector (Vector α 48) 16) 24) (r q : CellRef) (a : α) :
    cellAt (setCell m r a) q = if q = r then a else cellAt m q := by
  obtain ⟨p, l, c⟩ := r
  obtain ⟨p', l', c'⟩ := q
  simp only [cellAt, setCell, get_setAt, CellRef.mk.injEq]
  by_cases h : p' = p
  · subst h
    by_cases h2 : l' = l
    · subst h2; simp [get_setAt]
    · simp [h2]
  · simp [h]

@[simp] theorem cellAt_setCell_self (m : Vector (Vector (Vector α 48) 16) 24) (r : CellRef) (a : α) :
    cellAt (setCell m r a) r = a := by simp [cellAt_setCell]

@[simp] theorem cellAt_setCell_ne (m : Vector (Vector (Vector α 48) 16) 24) {r q : CellRef} (h : q ≠ r) (a : α) :
    cellAt (setCell m r a) q = cellAt m q := by simp [cellAt_setCell, h]

/-! ### Record tables -/

theorem RecTable.get_set (t : RecTable α) (r q : RecordId) (a : α) :
    (t.set r a).get q = if q = r then a else t.get q := by
  cases r <;> cases q <;> simp [RecTable.set, RecTable.get, get_setAt]

@[simp] theorem RecTable.get_set_self (t : RecTable α) (r : RecordId) (a : α) : (t.set r a).get r = a := by
  simp [RecTable.get_set]

@[simp] theorem RecTable.get_set_ne (t : RecTable α) {r q : RecordId} (h : q ≠ r) (a : α) :
    (t.set r a).get q = t.get q := by simp [RecTable.get_set, h]

/-! ### Ordered lists -/

@[simp] theorem mem_insertBy (le : α → α → Bool) (a b : α) (l : List α) :
    b ∈ insertBy le a l ↔ b = a ∨ b ∈ l := by
  induction l with
  | nil => simp [insertBy]
  | cons c l ih => simp only [insertBy]; split <;> simp [ih]; tauto

@[simp] theorem length_insertBy (le : α → α → Bool) (a : α) (l : List α) :
    (insertBy le a l).length = l.length + 1 := by
  induction l with
  | nil => rfl
  | cons c l ih => simp only [insertBy]; split <;> simp [ih]

/-- What every step of a fold keeps, the fold keeps. -/
theorem foldl_keeps {σ γ : Type} (g : σ → γ) (f : σ → α → σ) (h : ∀ s a, g (f s a) = g s) (l : List α) (s : σ) :
    g (l.foldl f s) = g s := by
  induction l generalizing s with
  | nil => rfl
  | cons a l ih => rw [List.foldl_cons, ih, h]

/-- What every step of a fold preserves, the fold preserves. -/
theorem foldl_preserves {σ : Type} (P : σ → Prop) (f : σ → α → σ) (l : List α) (h : ∀ s a, a ∈ l → P s → P (f s a))
    (s : σ) (hs : P s) : P (l.foldl f s) := by
  induction l generalizing s with
  | nil => exact hs
  | cons a l ih =>
    exact ih (fun s b hb hs => h s b (List.mem_cons_of_mem _ hb) hs) _ (h s a List.mem_cons_self hs)

@[simp] theorem mem_sortBy (le : α → α → Bool) (l : List α) (b : α) : b ∈ sortBy le l ↔ b ∈ l := by
  have key : ∀ (l acc : List α), b ∈ l.foldl (fun acc a => insertBy le a acc) acc ↔ b ∈ l ∨ b ∈ acc := by
    intro l
    induction l with
    | nil => simp
    | cons a l ih => intro acc; simp [ih]; tauto
  simp [sortBy, key]

end Sys2Proof.Machine
end

