-- ==== Sys2Proof/Laws/State.lean ====
section
/-! SUPPORT. What each plain update leaves unchanged: one fact for each field of the state that the update does not
write; `simp` uses every one of them. -/

namespace Sys2Proof.Machine

/-- Two states are equal when they agree in every field. -/
theorem State.ext_fields {s t : State}
    (h0 : s.resetN = t.resetN) (h1 : s.lrstN = t.lrstN) (h2 : s.part = t.part) (h3 : s.decoder = t.decoder)
    (h4 : s.setup = t.setup) (h5 : s.start = t.start) (h6 : s.traffic = t.traffic) (h7 : s.commit = t.commit)
    (h8 : s.offers = t.offers) (h9 : s.seats = t.seats) (h10 : s.journal = t.journal)
    (h11 : s.holds = t.holds) (h12 : s.clock = t.clock) (h13 : s.due = t.due) (h14 : s.roster = t.roster)
    (h15 : s.painter = t.painter) (h16 : s.notices = t.notices) (h17 : s.scan = t.scan)
    (h18 : s.trailers = t.trailers) (h19 : s.reports = t.reports) (h20 : s.memOut = t.memOut)
    (h21 : s.ctlOut = t.ctlOut) (h22 : s.free = t.free) (h23 : s.pending = t.pending) : s = t := by
  cases s; cases t; simp_all

@[simp] theorem raise_keeps (s : State) (k : ReportKind) (a b : List Byte) :
    (raise s k a b).resetN = s.resetN ∧ (raise s k a b).lrstN = s.lrstN ∧ (raise s k a b).part = s.part ∧
    (raise s k a b).decoder = s.decoder ∧ (raise s k a b).setup = s.setup ∧ (raise s k a b).start = s.start ∧
    (raise s k a b).traffic = s.traffic ∧ (raise s k a b).commit = s.commit ∧ (raise s k a b).offers = s.offers ∧
    (raise s k a b).seats = s.seats ∧ (raise s k a b).journal = s.journal ∧ (raise s k a b).holds = s.holds ∧
    (raise s k a b).clock = s.clock ∧ (raise s k a b).due = s.due ∧ (raise s k a b).roster = s.roster ∧
    (raise s k a b).painter = s.painter ∧ (raise s k a b).notices = s.notices ∧ (raise s k a b).scan = s.scan ∧
    (raise s k a b).trailers = s.trailers ∧ (raise s k a b).memOut = s.memOut ∧ (raise s k a b).ctlOut = s.ctlOut ∧
    (raise s k a b).free = s.free ∧ (raise s k a b).pending = s.pending := by
  and_intros <;> rfl

@[simp] theorem drawFree_keeps (s : State) (n : Nat) :
    (drawFree s n).resetN = s.resetN ∧ (drawFree s n).lrstN = s.lrstN ∧ (drawFree s n).part = s.part ∧
    (drawFree s n).decoder = s.decoder ∧ (drawFree s n).setup = s.setup ∧ (drawFree s n).start = s.start ∧
    (drawFree s n).traffic = s.traffic ∧ (drawFree s n).commit = s.commit ∧ (drawFree s n).offers = s.offers ∧
    (drawFree s n).seats = s.seats ∧ (drawFree s n).journal = s.journal ∧ (drawFree s n).holds = s.holds ∧
    (drawFree s n).clock = s.clock ∧ (drawFree s n).due = s.due ∧ (drawFree s n).roster = s.roster ∧
    (drawFree s n).painter = s.painter ∧ (drawFree s n).notices = s.notices ∧ (drawFree s n).scan = s.scan ∧
    (drawFree s n).trailers = s.trailers ∧ (drawFree s n).reports = s.reports ∧ (drawFree s n).memOut = s.memOut ∧
    (drawFree s n).ctlOut = s.ctlOut ∧ (drawFree s n).pending = s.pending := by
  and_intros <;> rfl

@[simp] theorem markShowing_keeps (s : State) (i : ShowingIx) :
    (markShowing s i).resetN = s.resetN ∧ (markShowing s i).lrstN = s.lrstN ∧ (markShowing s i).part = s.part ∧
    (markShowing s i).decoder = s.decoder ∧ (markShowing s i).setup = s.setup ∧ (markShowing s i).start = s.start ∧
    (markShowing s i).traffic = s.traffic ∧ (markShowing s i).offers = s.offers ∧ (markShowing s i).seats = s.seats ∧
    (markShowing s i).journal = s.journal ∧ (markShowing s i).holds = s.holds ∧ (markShowing s i).clock = s.clock ∧
    (markShowing s i).due = s.due ∧ (markShowing s i).roster = s.roster ∧ (markShowing s i).painter = s.painter ∧
    (markShowing s i).notices = s.notices ∧ (markShowing s i).scan = s.scan ∧
    (markShowing s i).trailers = s.trailers ∧ (markShowing s i).reports = s.reports ∧
    (markShowing s i).memOut = s.memOut ∧ (markShowing s i).ctlOut = s.ctlOut ∧ (markShowing s i).free = s.free ∧
    (markShowing s i).pending = s.pending := by
  and_intros <;> rfl

@[simp] theorem markJournal_keeps (s : State) :
    (markJournal s).resetN = s.resetN ∧ (markJournal s).lrstN = s.lrstN ∧ (markJournal s).part = s.part ∧
    (markJournal s).decoder = s.decoder ∧ (markJournal s).setup = s.setup ∧ (markJournal s).start = s.start ∧
    (markJournal s).traffic = s.traffic ∧ (markJournal s).offers = s.offers ∧ (markJournal s).seats = s.seats ∧
    (markJournal s).journal = s.journal ∧ (markJournal s).holds = s.holds ∧ (markJournal s).clock = s.clock ∧
    (markJournal s).due = s.due ∧ (markJournal s).roster = s.roster ∧ (markJournal s).painter = s.painter ∧
    (markJournal s).notices = s.notices ∧ (markJournal s).scan = s.scan ∧ (markJournal s).trailers = s.trailers ∧
    (markJournal s).reports = s.reports ∧ (markJournal s).memOut = s.memOut ∧ (markJournal s).ctlOut = s.ctlOut ∧
    (markJournal s).free = s.free ∧ (markJournal s).pending = s.pending := by
  and_intros <;> rfl

@[simp] theorem markStream_keeps (s : State) (i : StreamIx) :
    (markStream s i).resetN = s.resetN ∧ (markStream s i).lrstN = s.lrstN ∧ (markStream s i).part = s.part ∧
    (markStream s i).decoder = s.decoder ∧ (markStream s i).setup = s.setup ∧ (markStream s i).start = s.start ∧
    (markStream s i).traffic = s.traffic ∧ (markStream s i).offers = s.offers ∧ (markStream s i).seats = s.seats ∧
    (markStream s i).journal = s.journal ∧ (markStream s i).holds = s.holds ∧ (markStream s i).clock = s.clock ∧
    (markStream s i).due = s.due ∧ (markStream s i).roster = s.roster ∧ (markStream s i).painter = s.painter ∧
    (markStream s i).notices = s.notices ∧ (markStream s i).scan = s.scan ∧ (markStream s i).trailers = s.trailers ∧
    (markStream s i).reports = s.reports ∧ (markStream s i).memOut = s.memOut ∧ (markStream s i).ctlOut = s.ctlOut ∧
    (markStream s i).free = s.free ∧ (markStream s i).pending = s.pending := by
  and_intros <;> rfl

@[simp] theorem markReportHeader_keeps (s : State) :
    (markReportHeader s).resetN = s.resetN ∧ (markReportHeader s).lrstN = s.lrstN ∧
    (markReportHeader s).part = s.part ∧ (markReportHeader s).decoder = s.decoder ∧
    (markReportHeader s).setup = s.setup ∧ (markReportHeader s).start = s.start ∧
    (markReportHeader s).traffic = s.traffic ∧ (markReportHeader s).commit = s.commit ∧
    (markReportHeader s).offers = s.offers ∧ (markReportHeader s).seats = s.seats ∧
    (markReportHeader s).journal = s.journal ∧ (markReportHeader s).holds = s.holds ∧
    (markReportHeader s).clock = s.clock ∧ (markReportHeader s).due = s.due ∧ (markReportHeader s).roster = s.roster ∧
    (markReportHeader s).painter = s.painter ∧ (markReportHeader s).notices = s.notices ∧
    (markReportHeader s).scan = s.scan ∧ (markReportHeader s).trailers = s.trailers ∧
    (markReportHeader s).memOut = s.memOut ∧ (markReportHeader s).ctlOut = s.ctlOut ∧
    (markReportHeader s).free = s.free ∧ (markReportHeader s).pending = s.pending := by
  and_intros <;> rfl

@[simp] theorem respond_keeps (s : State) (c : CtlTag) (st : Status) (d : List Byte) :
    (respond s c st d).resetN = s.resetN ∧ (respond s c st d).lrstN = s.lrstN ∧ (respond s c st d).part = s.part ∧
    (respond s c st d).decoder = s.decoder ∧ (respond s c st d).setup = s.setup ∧ (respond s c st d).start = s.start ∧
    (respond s c st d).traffic = s.traffic ∧ (respond s c st d).commit = s.commit ∧
    (respond s c st d).offers = s.offers ∧ (respond s c st d).seats = s.seats ∧
    (respond s c st d).journal = s.journal ∧ (respond s c st d).holds = s.holds ∧ (respond s c st d).clock = s.clock ∧
    (respond s c st d).due = s.due ∧ (respond s c st d).roster = s.roster ∧ (respond s c st d).painter = s.painter ∧
    (respond s c st d).notices = s.notices ∧ (respond s c st d).scan = s.scan ∧
    (respond s c st d).trailers = s.trailers ∧ (respond s c st d).reports = s.reports ∧
    (respond s c st d).memOut = s.memOut ∧ (respond s c st d).free = s.free ∧ (respond s c st d).pending = s.pending := by
  and_intros <;> rfl

@[simp] theorem respondFault_keeps (s : State) (c : CtlTag) (b : Burst) :
    (respondFault s c b).resetN = s.resetN ∧ (respondFault s c b).lrstN = s.lrstN ∧
    (respondFault s c b).part = s.part ∧ (respondFault s c b).decoder = s.decoder ∧
    (respondFault s c b).setup = s.setup ∧ (respondFault s c b).start = s.start ∧
    (respondFault s c b).traffic = s.traffic ∧ (respondFault s c b).commit = s.commit ∧
    (respondFault s c b).offers = s.offers ∧ (respondFault s c b).seats = s.seats ∧
    (respondFault s c b).journal = s.journal ∧ (respondFault s c b).holds = s.holds ∧
    (respondFault s c b).clock = s.clock ∧ (respondFault s c b).due = s.due ∧ (respondFault s c b).roster = s.roster ∧
    (respondFault s c b).painter = s.painter ∧ (respondFault s c b).notices = s.notices ∧
    (respondFault s c b).scan = s.scan ∧ (respondFault s c b).trailers = s.trailers ∧
    (respondFault s c b).reports = s.reports ∧ (respondFault s c b).memOut = s.memOut ∧
    (respondFault s c b).pending = s.pending := by
  and_intros <;> rfl

@[simp] theorem issue_keeps (s : State) (m : MemTag) (b : Burst) (h : Holder) :
    (issue s m b h).resetN = s.resetN ∧ (issue s m b h).lrstN = s.lrstN ∧ (issue s m b h).part = s.part ∧
    (issue s m b h).decoder = s.decoder ∧ (issue s m b h).setup = s.setup ∧ (issue s m b h).start = s.start ∧
    (issue s m b h).commit = s.commit ∧ (issue s m b h).offers = s.offers ∧ (issue s m b h).seats = s.seats ∧
    (issue s m b h).journal = s.journal ∧ (issue s m b h).holds = s.holds ∧ (issue s m b h).clock = s.clock ∧
    (issue s m b h).due = s.due ∧ (issue s m b h).roster = s.roster ∧ (issue s m b h).painter = s.painter ∧
    (issue s m b h).notices = s.notices ∧ (issue s m b h).scan = s.scan ∧ (issue s m b h).trailers = s.trailers ∧
    (issue s m b h).reports = s.reports ∧ (issue s m b h).ctlOut = s.ctlOut ∧ (issue s m b h).free = s.free ∧
    (issue s m b h).pending = s.pending := by
  and_intros <;> rfl

@[simp] theorem freeTag_keeps (s : State) (m : MemTag) :
    (freeTag s m).resetN = s.resetN ∧ (freeTag s m).lrstN = s.lrstN ∧ (freeTag s m).part = s.part ∧
    (freeTag s m).decoder = s.decoder ∧ (freeTag s m).setup = s.setup ∧ (freeTag s m).start = s.start ∧
    (freeTag s m).commit = s.commit ∧ (freeTag s m).offers = s.offers ∧ (freeTag s m).seats = s.seats ∧
    (freeTag s m).journal = s.journal ∧ (freeTag s m).holds = s.holds ∧ (freeTag s m).clock = s.clock ∧
    (freeTag s m).due = s.due ∧ (freeTag s m).roster = s.roster ∧ (freeTag s m).painter = s.painter ∧
    (freeTag s m).notices = s.notices ∧ (freeTag s m).scan = s.scan ∧ (freeTag s m).trailers = s.trailers ∧
    (freeTag s m).reports = s.reports ∧ (freeTag s m).memOut = s.memOut ∧ (freeTag s m).ctlOut = s.ctlOut ∧
    (freeTag s m).free = s.free ∧ (freeTag s m).pending = s.pending := by
  and_intros <;> rfl

@[simp] theorem setHolder_keeps (s : State) (m : MemTag) (h : Holder) :
    (setHolder s m h).resetN = s.resetN ∧ (setHolder s m h).lrstN = s.lrstN ∧ (setHolder s m h).part = s.part ∧
    (setHolder s m h).decoder = s.decoder ∧ (setHolder s m h).setup = s.setup ∧ (setHolder s m h).start = s.start ∧
    (setHolder s m h).commit = s.commit ∧ (setHolder s m h).offers = s.offers ∧ (setHolder s m h).seats = s.seats ∧
    (setHolder s m h).journal = s.journal ∧ (setHolder s m h).holds = s.holds ∧ (setHolder s m h).clock = s.clock ∧
    (setHolder s m h).due = s.due ∧ (setHolder s m h).roster = s.roster ∧ (setHolder s m h).painter = s.painter ∧
    (setHolder s m h).notices = s.notices ∧ (setHolder s m h).scan = s.scan ∧
    (setHolder s m h).trailers = s.trailers ∧ (setHolder s m h).reports = s.reports ∧
    (setHolder s m h).memOut = s.memOut ∧ (setHolder s m h).ctlOut = s.ctlOut ∧ (setHolder s m h).free = s.free ∧
    (setHolder s m h).pending = s.pending := by
  and_intros <;> rfl

@[simp] theorem setEntry_keeps (s : State) (c : CtlTag) (e : Option InFlight) :
    (setEntry s c e).resetN = s.resetN ∧ (setEntry s c e).lrstN = s.lrstN ∧ (setEntry s c e).part = s.part ∧
    (setEntry s c e).decoder = s.decoder ∧ (setEntry s c e).setup = s.setup ∧ (setEntry s c e).start = s.start ∧
    (setEntry s c e).commit = s.commit ∧ (setEntry s c e).offers = s.offers ∧ (setEntry s c e).seats = s.seats ∧
    (setEntry s c e).journal = s.journal ∧ (setEntry s c e).holds = s.holds ∧ (setEntry s c e).clock = s.clock ∧
    (setEntry s c e).due = s.due ∧ (setEntry s c e).roster = s.roster ∧ (setEntry s c e).painter = s.painter ∧
    (setEntry s c e).notices = s.notices ∧ (setEntry s c e).scan = s.scan ∧ (setEntry s c e).trailers = s.trailers ∧
    (setEntry s c e).reports = s.reports ∧ (setEntry s c e).memOut = s.memOut ∧ (setEntry s c e).ctlOut = s.ctlOut ∧
    (setEntry s c e).free = s.free ∧ (setEntry s c e).pending = s.pending := by
  and_intros <;> rfl

@[simp] theorem dropOwn_keeps (s : State) :
    (dropOwn s).resetN = s.resetN ∧ (dropOwn s).lrstN = s.lrstN ∧ (dropOwn s).part = s.part ∧
    (dropOwn s).decoder = s.decoder ∧ (dropOwn s).setup = s.setup ∧ (dropOwn s).start = s.start ∧
    (dropOwn s).commit = s.commit ∧ (dropOwn s).offers = s.offers ∧ (dropOwn s).seats = s.seats ∧
    (dropOwn s).journal = s.journal ∧ (dropOwn s).holds = s.holds ∧ (dropOwn s).clock = s.clock ∧
    (dropOwn s).due = s.due ∧ (dropOwn s).roster = s.roster ∧ (dropOwn s).painter = s.painter ∧
    (dropOwn s).notices = s.notices ∧ (dropOwn s).scan = s.scan ∧ (dropOwn s).trailers = s.trailers ∧
    (dropOwn s).reports = s.reports ∧ (dropOwn s).memOut = s.memOut ∧ (dropOwn s).ctlOut = s.ctlOut ∧
    (dropOwn s).free = s.free ∧ (dropOwn s).pending = s.pending := by
  and_intros <;> rfl

@[simp] theorem settle_keeps (s : State) :
    (settle s).resetN = s.resetN ∧ (settle s).lrstN = s.lrstN ∧ (settle s).part = s.part ∧
    (settle s).decoder = s.decoder ∧ (settle s).setup = s.setup ∧ (settle s).start = s.start ∧
    (settle s).traffic = s.traffic ∧ (settle s).commit = s.commit ∧ (settle s).seats = s.seats ∧
    (settle s).journal = s.journal ∧ (settle s).holds = s.holds ∧ (settle s).clock = s.clock ∧
    (settle s).due = s.due ∧ (settle s).roster = s.roster ∧ (settle s).painter = s.painter ∧
    (settle s).notices = s.notices ∧ (settle s).scan = s.scan ∧ (settle s).trailers = s.trailers ∧
    (settle s).reports = s.reports ∧ (settle s).memOut = s.memOut ∧ (settle s).ctlOut = s.ctlOut ∧
    (settle s).free = s.free ∧ (settle s).pending = s.pending := by
  and_intros <;> rfl

@[simp] theorem removeDue_keeps (s : State) (k : DueKey) :
    (removeDue s k).resetN = s.resetN ∧ (removeDue s k).lrstN = s.lrstN ∧ (removeDue s k).part = s.part ∧
    (removeDue s k).decoder = s.decoder ∧ (removeDue s k).setup = s.setup ∧ (removeDue s k).start = s.start ∧
    (removeDue s k).traffic = s.traffic ∧ (removeDue s k).commit = s.commit ∧ (removeDue s k).offers = s.offers ∧
    (removeDue s k).seats = s.seats ∧ (removeDue s k).journal = s.journal ∧ (removeDue s k).holds = s.holds ∧
    (removeDue s k).clock = s.clock ∧ (removeDue s k).roster = s.roster ∧ (removeDue s k).painter = s.painter ∧
    (removeDue s k).notices = s.notices ∧ (removeDue s k).scan = s.scan ∧ (removeDue s k).trailers = s.trailers ∧
    (removeDue s k).reports = s.reports ∧ (removeDue s k).memOut = s.memOut ∧ (removeDue s k).ctlOut = s.ctlOut ∧
    (removeDue s k).free = s.free ∧ (removeDue s k).pending = s.pending := by
  and_intros <;> rfl

@[simp] theorem insertDue_keeps (s : State) (k : DueKey) (p : Option Phase) (t : LobbyTime) :
    (insertDue s k p t).resetN = s.resetN ∧ (insertDue s k p t).lrstN = s.lrstN ∧ (insertDue s k p t).part = s.part ∧
    (insertDue s k p t).decoder = s.decoder ∧ (insertDue s k p t).setup = s.setup ∧
    (insertDue s k p t).start = s.start ∧ (insertDue s k p t).traffic = s.traffic ∧
    (insertDue s k p t).commit = s.commit ∧ (insertDue s k p t).offers = s.offers ∧
    (insertDue s k p t).seats = s.seats ∧ (insertDue s k p t).journal = s.journal ∧
    (insertDue s k p t).holds = s.holds ∧ (insertDue s k p t).clock = s.clock ∧
    (insertDue s k p t).roster = s.roster ∧ (insertDue s k p t).painter = s.painter ∧
    (insertDue s k p t).notices = s.notices ∧ (insertDue s k p t).scan = s.scan ∧
    (insertDue s k p t).trailers = s.trailers ∧ (insertDue s k p t).reports = s.reports ∧
    (insertDue s k p t).memOut = s.memOut ∧ (insertDue s k p t).ctlOut = s.ctlOut ∧
    (insertDue s k p t).free = s.free ∧ (insertDue s k p t).pending = s.pending := by
  and_intros <;> rfl

@[simp] theorem setMarks_keeps (s : State) (r : CellRef) (m : CellMarks) :
    (setMarks s r m).resetN = s.resetN ∧ (setMarks s r m).lrstN = s.lrstN ∧ (setMarks s r m).part = s.part ∧
    (setMarks s r m).decoder = s.decoder ∧ (setMarks s r m).setup = s.setup ∧ (setMarks s r m).start = s.start ∧
    (setMarks s r m).traffic = s.traffic ∧ (setMarks s r m).commit = s.commit ∧ (setMarks s r m).offers = s.offers ∧
    (setMarks s r m).seats = s.seats ∧ (setMarks s r m).journal = s.journal ∧ (setMarks s r m).holds = s.holds ∧
    (setMarks s r m).clock = s.clock ∧ (setMarks s r m).due = s.due ∧ (setMarks s r m).roster = s.roster ∧
    (setMarks s r m).notices = s.notices ∧ (setMarks s r m).scan = s.scan ∧ (setMarks s r m).trailers = s.trailers ∧
    (setMarks s r m).reports = s.reports ∧ (setMarks s r m).memOut = s.memOut ∧ (setMarks s r m).ctlOut = s.ctlOut ∧
    (setMarks s r m).free = s.free ∧ (setMarks s r m).pending = s.pending := by
  and_intros <;> rfl

@[simp] theorem setRedraw_keeps (s : State) (p : PanelIx) (l : LineIx) (b : Bool) :
    (setRedraw s p l b).resetN = s.resetN ∧ (setRedraw s p l b).lrstN = s.lrstN ∧ (setRedraw s p l b).part = s.part ∧
    (setRedraw s p l b).decoder = s.decoder ∧ (setRedraw s p l b).setup = s.setup ∧
    (setRedraw s p l b).start = s.start ∧ (setRedraw s p l b).traffic = s.traffic ∧
    (setRedraw s p l b).commit = s.commit ∧ (setRedraw s p l b).offers = s.offers ∧
    (setRedraw s p l b).seats = s.seats ∧ (setRedraw s p l b).journal = s.journal ∧
    (setRedraw s p l b).holds = s.holds ∧ (setRedraw s p l b).clock = s.clock ∧ (setRedraw s p l b).due = s.due ∧
    (setRedraw s p l b).roster = s.roster ∧ (setRedraw s p l b).notices = s.notices ∧
    (setRedraw s p l b).scan = s.scan ∧ (setRedraw s p l b).trailers = s.trailers ∧
    (setRedraw s p l b).reports = s.reports ∧ (setRedraw s p l b).memOut = s.memOut ∧
    (setRedraw s p l b).ctlOut = s.ctlOut ∧ (setRedraw s p l b).free = s.free ∧
    (setRedraw s p l b).pending = s.pending := by
  and_intros <;> rfl

@[simp] theorem clearPanel_keeps (s : State) (p : PanelIx) :
    (clearPanel s p).resetN = s.resetN ∧ (clearPanel s p).lrstN = s.lrstN ∧ (clearPanel s p).part = s.part ∧
    (clearPanel s p).decoder = s.decoder ∧ (clearPanel s p).setup = s.setup ∧ (clearPanel s p).start = s.start ∧
    (clearPanel s p).traffic = s.traffic ∧ (clearPanel s p).commit = s.commit ∧ (clearPanel s p).offers = s.offers ∧
    (clearPanel s p).seats = s.seats ∧ (clearPanel s p).journal = s.journal ∧ (clearPanel s p).holds = s.holds ∧
    (clearPanel s p).clock = s.clock ∧ (clearPanel s p).due = s.due ∧ (clearPanel s p).roster = s.roster ∧
    (clearPanel s p).notices = s.notices ∧ (clearPanel s p).scan = s.scan ∧ (clearPanel s p).trailers = s.trailers ∧
    (clearPanel s p).reports = s.reports ∧ (clearPanel s p).memOut = s.memOut ∧ (clearPanel s p).ctlOut = s.ctlOut ∧
    (clearPanel s p).free = s.free ∧ (clearPanel s p).pending = s.pending := by
  and_intros <;> rfl

@[simp] theorem unknownPanel_keeps (s : State) (p : PanelIx) :
    (unknownPanel s p).resetN = s.resetN ∧ (unknownPanel s p).lrstN = s.lrstN ∧ (unknownPanel s p).part = s.part ∧
    (unknownPanel s p).decoder = s.decoder ∧ (unknownPanel s p).setup = s.setup ∧ (unknownPanel s p).start = s.start ∧
    (unknownPanel s p).traffic = s.traffic ∧ (unknownPanel s p).commit = s.commit ∧
    (unknownPanel s p).offers = s.offers ∧ (unknownPanel s p).seats = s.seats ∧
    (unknownPanel s p).journal = s.journal ∧ (unknownPanel s p).holds = s.holds ∧ (unknownPanel s p).clock = s.clock ∧
    (unknownPanel s p).due = s.due ∧ (unknownPanel s p).roster = s.roster ∧ (unknownPanel s p).notices = s.notices ∧
    (unknownPanel s p).scan = s.scan ∧ (unknownPanel s p).trailers = s.trailers ∧
    (unknownPanel s p).reports = s.reports ∧ (unknownPanel s p).memOut = s.memOut ∧
    (unknownPanel s p).ctlOut = s.ctlOut ∧ (unknownPanel s p).free = s.free ∧ (unknownPanel s p).pending = s.pending := by
  and_intros <;> rfl

@[simp] theorem modPaint_keeps (s : State) (k : Fin 2) (f : Paint → Paint) :
    (modPaint s k f).resetN = s.resetN ∧ (modPaint s k f).lrstN = s.lrstN ∧ (modPaint s k f).part = s.part ∧
    (modPaint s k f).decoder = s.decoder ∧ (modPaint s k f).setup = s.setup ∧ (modPaint s k f).start = s.start ∧
    (modPaint s k f).traffic = s.traffic ∧ (modPaint s k f).commit = s.commit ∧ (modPaint s k f).offers = s.offers ∧
    (modPaint s k f).seats = s.seats ∧ (modPaint s k f).journal = s.journal ∧ (modPaint s k f).holds = s.holds ∧
    (modPaint s k f).clock = s.clock ∧ (modPaint s k f).due = s.due ∧ (modPaint s k f).roster = s.roster ∧
    (modPaint s k f).notices = s.notices ∧ (modPaint s k f).scan = s.scan ∧ (modPaint s k f).trailers = s.trailers ∧
    (modPaint s k f).reports = s.reports ∧ (modPaint s k f).memOut = s.memOut ∧ (modPaint s k f).ctlOut = s.ctlOut ∧
    (modPaint s k f).free = s.free ∧ (modPaint s k f).pending = s.pending := by
  and_intros <;> rfl

@[simp] theorem freePaint_keeps (s : State) :
    (freePaint s).resetN = s.resetN ∧ (freePaint s).lrstN = s.lrstN ∧ (freePaint s).part = s.part ∧
    (freePaint s).decoder = s.decoder ∧ (freePaint s).setup = s.setup ∧ (freePaint s).start = s.start ∧
    (freePaint s).traffic = s.traffic ∧ (freePaint s).commit = s.commit ∧ (freePaint s).offers = s.offers ∧
    (freePaint s).seats = s.seats ∧ (freePaint s).journal = s.journal ∧ (freePaint s).holds = s.holds ∧
    (freePaint s).clock = s.clock ∧ (freePaint s).due = s.due ∧ (freePaint s).roster = s.roster ∧
    (freePaint s).notices = s.notices ∧ (freePaint s).scan = s.scan ∧ (freePaint s).trailers = s.trailers ∧
    (freePaint s).reports = s.reports ∧ (freePaint s).memOut = s.memOut ∧ (freePaint s).ctlOut = s.ctlOut ∧
    (freePaint s).free = s.free ∧ (freePaint s).pending = s.pending := by
  and_intros <;> rfl

@[simp] theorem assignRoster_keeps (s : State) (p : PanelIx) :
    (assignRoster s p).resetN = s.resetN ∧ (assignRoster s p).lrstN = s.lrstN ∧ (assignRoster s p).part = s.part ∧
    (assignRoster s p).decoder = s.decoder ∧ (assignRoster s p).setup = s.setup ∧ (assignRoster s p).start = s.start ∧
    (assignRoster s p).traffic = s.traffic ∧ (assignRoster s p).commit = s.commit ∧
    (assignRoster s p).offers = s.offers ∧ (assignRoster s p).seats = s.seats ∧
    (assignRoster s p).journal = s.journal ∧ (assignRoster s p).holds = s.holds ∧ (assignRoster s p).clock = s.clock ∧
    (assignRoster s p).due = s.due ∧ (assignRoster s p).painter = s.painter ∧ (assignRoster s p).notices = s.notices ∧
    (assignRoster s p).scan = s.scan ∧ (assignRoster s p).trailers = s.trailers ∧
    (assignRoster s p).reports = s.reports ∧ (assignRoster s p).memOut = s.memOut ∧
    (assignRoster s p).ctlOut = s.ctlOut ∧ (assignRoster s p).free = s.free ∧ (assignRoster s p).pending = s.pending := by
  and_intros <;> rfl

@[simp] theorem storeTargets_keeps (s : State) (p : PanelIx) (l : LineIx) (ts : List Target) :
    (storeTargets s p l ts).resetN = s.resetN ∧ (storeTargets s p l ts).lrstN = s.lrstN ∧
    (storeTargets s p l ts).part = s.part ∧ (storeTargets s p l ts).decoder = s.decoder ∧
    (storeTargets s p l ts).setup = s.setup ∧ (storeTargets s p l ts).start = s.start ∧
    (storeTargets s p l ts).traffic = s.traffic ∧ (storeTargets s p l ts).commit = s.commit ∧
    (storeTargets s p l ts).offers = s.offers ∧ (storeTargets s p l ts).seats = s.seats ∧
    (storeTargets s p l ts).journal = s.journal ∧ (storeTargets s p l ts).holds = s.holds ∧
    (storeTargets s p l ts).clock = s.clock ∧ (storeTargets s p l ts).due = s.due ∧
    (storeTargets s p l ts).painter = s.painter ∧ (storeTargets s p l ts).notices = s.notices ∧
    (storeTargets s p l ts).scan = s.scan ∧ (storeTargets s p l ts).trailers = s.trailers ∧
    (storeTargets s p l ts).reports = s.reports ∧ (storeTargets s p l ts).memOut = s.memOut ∧
    (storeTargets s p l ts).ctlOut = s.ctlOut ∧ (storeTargets s p l ts).free = s.free ∧
    (storeTargets s p l ts).pending = s.pending := by
  and_intros <;> rfl

@[simp] theorem storeTitle_keeps (s : State) (t : TitleIx) (x : Title) :
    (storeTitle s t x).resetN = s.resetN ∧ (storeTitle s t x).lrstN = s.lrstN ∧ (storeTitle s t x).part = s.part ∧
    (storeTitle s t x).decoder = s.decoder ∧ (storeTitle s t x).setup = s.setup ∧ (storeTitle s t x).start = s.start ∧
    (storeTitle s t x).traffic = s.traffic ∧ (storeTitle s t x).commit = s.commit ∧
    (storeTitle s t x).offers = s.offers ∧ (storeTitle s t x).seats = s.seats ∧
    (storeTitle s t x).journal = s.journal ∧ (storeTitle s t x).holds = s.holds ∧ (storeTitle s t x).clock = s.clock ∧
    (storeTitle s t x).due = s.due ∧ (storeTitle s t x).painter = s.painter ∧ (storeTitle s t x).notices = s.notices ∧
    (storeTitle s t x).scan = s.scan ∧ (storeTitle s t x).trailers = s.trailers ∧
    (storeTitle s t x).reports = s.reports ∧ (storeTitle s t x).memOut = s.memOut ∧
    (storeTitle s t x).ctlOut = s.ctlOut ∧ (storeTitle s t x).free = s.free ∧ (storeTitle s t x).pending = s.pending := by
  and_intros <;> rfl

@[simp] theorem placeSeat_keeps (s : State) (i : ShowingIx) (e : Seat) :
    (placeSeat s i e).resetN = s.resetN ∧ (placeSeat s i e).lrstN = s.lrstN ∧ (placeSeat s i e).part = s.part ∧
    (placeSeat s i e).decoder = s.decoder ∧ (placeSeat s i e).setup = s.setup ∧ (placeSeat s i e).start = s.start ∧
    (placeSeat s i e).traffic = s.traffic ∧ (placeSeat s i e).commit = s.commit ∧
    (placeSeat s i e).offers = s.offers ∧ (placeSeat s i e).journal = s.journal ∧ (placeSeat s i e).holds = s.holds ∧
    (placeSeat s i e).clock = s.clock ∧ (placeSeat s i e).due = s.due ∧ (placeSeat s i e).roster = s.roster ∧
    (placeSeat s i e).painter = s.painter ∧ (placeSeat s i e).notices = s.notices ∧ (placeSeat s i e).scan = s.scan ∧
    (placeSeat s i e).trailers = s.trailers ∧ (placeSeat s i e).reports = s.reports ∧
    (placeSeat s i e).memOut = s.memOut ∧ (placeSeat s i e).ctlOut = s.ctlOut ∧ (placeSeat s i e).free = s.free ∧
    (placeSeat s i e).pending = s.pending := by
  and_intros <;> rfl

@[simp] theorem releaseHolds_keeps (s : State) (i : ShowingIx) :
    (releaseHolds s i).resetN = s.resetN ∧ (releaseHolds s i).lrstN = s.lrstN ∧ (releaseHolds s i).part = s.part ∧
    (releaseHolds s i).decoder = s.decoder ∧ (releaseHolds s i).setup = s.setup ∧ (releaseHolds s i).start = s.start ∧
    (releaseHolds s i).traffic = s.traffic ∧ (releaseHolds s i).commit = s.commit ∧
    (releaseHolds s i).offers = s.offers ∧ (releaseHolds s i).seats = s.seats ∧
    (releaseHolds s i).journal = s.journal ∧ (releaseHolds s i).clock = s.clock ∧
    (releaseHolds s i).roster = s.roster ∧ (releaseHolds s i).painter = s.painter ∧
    (releaseHolds s i).notices = s.notices ∧ (releaseHolds s i).scan = s.scan ∧
    (releaseHolds s i).trailers = s.trailers ∧ (releaseHolds s i).reports = s.reports ∧
    (releaseHolds s i).memOut = s.memOut ∧ (releaseHolds s i).ctlOut = s.ctlOut ∧ (releaseHolds s i).free = s.free ∧
    (releaseHolds s i).pending = s.pending := by
  and_intros <;> rfl

@[simp] theorem removeHold_keeps (s : State) (h : HoldIx) :
    (removeHold s h).resetN = s.resetN ∧ (removeHold s h).lrstN = s.lrstN ∧ (removeHold s h).part = s.part ∧
    (removeHold s h).decoder = s.decoder ∧ (removeHold s h).setup = s.setup ∧ (removeHold s h).start = s.start ∧
    (removeHold s h).traffic = s.traffic ∧ (removeHold s h).commit = s.commit ∧ (removeHold s h).offers = s.offers ∧
    (removeHold s h).seats = s.seats ∧ (removeHold s h).journal = s.journal ∧ (removeHold s h).clock = s.clock ∧
    (removeHold s h).roster = s.roster ∧ (removeHold s h).painter = s.painter ∧ (removeHold s h).notices = s.notices ∧
    (removeHold s h).scan = s.scan ∧ (removeHold s h).trailers = s.trailers ∧ (removeHold s h).reports = s.reports ∧
    (removeHold s h).memOut = s.memOut ∧ (removeHold s h).ctlOut = s.ctlOut ∧ (removeHold s h).free = s.free ∧
    (removeHold s h).pending = s.pending := by
  and_intros <;> rfl

@[simp] theorem popBatch_keeps (s : State) :
    (popBatch s).resetN = s.resetN ∧ (popBatch s).lrstN = s.lrstN ∧ (popBatch s).part = s.part ∧
    (popBatch s).decoder = s.decoder ∧ (popBatch s).setup = s.setup ∧ (popBatch s).start = s.start ∧
    (popBatch s).traffic = s.traffic ∧ (popBatch s).commit = s.commit ∧ (popBatch s).offers = s.offers ∧
    (popBatch s).seats = s.seats ∧ (popBatch s).journal = s.journal ∧ (popBatch s).holds = s.holds ∧
    (popBatch s).clock = s.clock ∧ (popBatch s).roster = s.roster ∧ (popBatch s).painter = s.painter ∧
    (popBatch s).notices = s.notices ∧ (popBatch s).scan = s.scan ∧ (popBatch s).trailers = s.trailers ∧
    (popBatch s).reports = s.reports ∧ (popBatch s).memOut = s.memOut ∧ (popBatch s).ctlOut = s.ctlOut ∧
    (popBatch s).free = s.free ∧ (popBatch s).pending = s.pending := by
  and_intros <;> rfl

@[simp] theorem updateGap_keeps (s : State) :
    (updateGap s).resetN = s.resetN ∧ (updateGap s).lrstN = s.lrstN ∧ (updateGap s).part = s.part ∧
    (updateGap s).decoder = s.decoder ∧ (updateGap s).setup = s.setup ∧ (updateGap s).start = s.start ∧
    (updateGap s).traffic = s.traffic ∧ (updateGap s).commit = s.commit ∧ (updateGap s).offers = s.offers ∧
    (updateGap s).seats = s.seats ∧ (updateGap s).holds = s.holds ∧ (updateGap s).clock = s.clock ∧
    (updateGap s).due = s.due ∧ (updateGap s).roster = s.roster ∧ (updateGap s).painter = s.painter ∧
    (updateGap s).notices = s.notices ∧ (updateGap s).scan = s.scan ∧ (updateGap s).trailers = s.trailers ∧
    (updateGap s).reports = s.reports ∧ (updateGap s).memOut = s.memOut ∧ (updateGap s).ctlOut = s.ctlOut ∧
    (updateGap s).free = s.free ∧ (updateGap s).pending = s.pending := by
  and_intros <;> rfl

@[simp] theorem advanceTail_keeps (s : State) :
    (advanceTail s).resetN = s.resetN ∧ (advanceTail s).lrstN = s.lrstN ∧ (advanceTail s).part = s.part ∧
    (advanceTail s).decoder = s.decoder ∧ (advanceTail s).setup = s.setup ∧ (advanceTail s).start = s.start ∧
    (advanceTail s).traffic = s.traffic ∧ (advanceTail s).offers = s.offers ∧ (advanceTail s).seats = s.seats ∧
    (advanceTail s).holds = s.holds ∧ (advanceTail s).clock = s.clock ∧ (advanceTail s).due = s.due ∧
    (advanceTail s).roster = s.roster ∧ (advanceTail s).painter = s.painter ∧ (advanceTail s).notices = s.notices ∧
    (advanceTail s).scan = s.scan ∧ (advanceTail s).trailers = s.trailers ∧ (advanceTail s).reports = s.reports ∧
    (advanceTail s).memOut = s.memOut ∧ (advanceTail s).ctlOut = s.ctlOut ∧ (advanceTail s).free = s.free ∧
    (advanceTail s).pending = s.pending := by
  and_intros <;> rfl

@[simp] theorem setJournalFetch_keeps (s : State) (f : JournalFetch) :
    (setJournalFetch s f).resetN = s.resetN ∧ (setJournalFetch s f).lrstN = s.lrstN ∧
    (setJournalFetch s f).part = s.part ∧ (setJournalFetch s f).decoder = s.decoder ∧
    (setJournalFetch s f).setup = s.setup ∧ (setJournalFetch s f).start = s.start ∧
    (setJournalFetch s f).traffic = s.traffic ∧ (setJournalFetch s f).commit = s.commit ∧
    (setJournalFetch s f).offers = s.offers ∧ (setJournalFetch s f).seats = s.seats ∧
    (setJournalFetch s f).holds = s.holds ∧ (setJournalFetch s f).clock = s.clock ∧
    (setJournalFetch s f).due = s.due ∧ (setJournalFetch s f).roster = s.roster ∧
    (setJournalFetch s f).painter = s.painter ∧ (setJournalFetch s f).notices = s.notices ∧
    (setJournalFetch s f).scan = s.scan ∧ (setJournalFetch s f).trailers = s.trailers ∧
    (setJournalFetch s f).reports = s.reports ∧ (setJournalFetch s f).memOut = s.memOut ∧
    (setJournalFetch s f).ctlOut = s.ctlOut ∧ (setJournalFetch s f).free = s.free ∧
    (setJournalFetch s f).pending = s.pending := by
  and_intros <;> rfl

@[simp] theorem setTail_keeps (s : State) (t : JournalIx) (l : Lap) :
    (setTail s t l).resetN = s.resetN ∧ (setTail s t l).lrstN = s.lrstN ∧ (setTail s t l).part = s.part ∧
    (setTail s t l).decoder = s.decoder ∧ (setTail s t l).setup = s.setup ∧ (setTail s t l).start = s.start ∧
    (setTail s t l).traffic = s.traffic ∧ (setTail s t l).commit = s.commit ∧ (setTail s t l).offers = s.offers ∧
    (setTail s t l).seats = s.seats ∧ (setTail s t l).holds = s.holds ∧ (setTail s t l).clock = s.clock ∧
    (setTail s t l).due = s.due ∧ (setTail s t l).roster = s.roster ∧ (setTail s t l).painter = s.painter ∧
    (setTail s t l).notices = s.notices ∧ (setTail s t l).scan = s.scan ∧ (setTail s t l).trailers = s.trailers ∧
    (setTail s t l).reports = s.reports ∧ (setTail s t l).memOut = s.memOut ∧ (setTail s t l).ctlOut = s.ctlOut ∧
    (setTail s t l).free = s.free ∧ (setTail s t l).pending = s.pending := by
  and_intros <;> rfl

@[simp] theorem setNotice_keeps (s : State) (n : NoticeIx) (x : Notice) :
    (setNotice s n x).resetN = s.resetN ∧ (setNotice s n x).lrstN = s.lrstN ∧ (setNotice s n x).part = s.part ∧
    (setNotice s n x).decoder = s.decoder ∧ (setNotice s n x).setup = s.setup ∧ (setNotice s n x).start = s.start ∧
    (setNotice s n x).traffic = s.traffic ∧ (setNotice s n x).commit = s.commit ∧
    (setNotice s n x).offers = s.offers ∧ (setNotice s n x).seats = s.seats ∧ (setNotice s n x).journal = s.journal ∧
    (setNotice s n x).holds = s.holds ∧ (setNotice s n x).clock = s.clock ∧ (setNotice s n x).due = s.due ∧
    (setNotice s n x).roster = s.roster ∧ (setNotice s n x).painter = s.painter ∧ (setNotice s n x).scan = s.scan ∧
    (setNotice s n x).trailers = s.trailers ∧ (setNotice s n x).reports = s.reports ∧
    (setNotice s n x).memOut = s.memOut ∧ (setNotice s n x).ctlOut = s.ctlOut ∧ (setNotice s n x).free = s.free ∧
    (setNotice s n x).pending = s.pending := by
  and_intros <;> rfl

@[simp] theorem setCache_keeps (s : State) (e : CacheIx) (x : CacheEntry) :
    (setCache s e x).resetN = s.resetN ∧ (setCache s e x).lrstN = s.lrstN ∧ (setCache s e x).part = s.part ∧
    (setCache s e x).decoder = s.decoder ∧ (setCache s e x).setup = s.setup ∧ (setCache s e x).start = s.start ∧
    (setCache s e x).traffic = s.traffic ∧ (setCache s e x).commit = s.commit ∧ (setCache s e x).offers = s.offers ∧
    (setCache s e x).seats = s.seats ∧ (setCache s e x).journal = s.journal ∧ (setCache s e x).holds = s.holds ∧
    (setCache s e x).clock = s.clock ∧ (setCache s e x).due = s.due ∧ (setCache s e x).roster = s.roster ∧
    (setCache s e x).painter = s.painter ∧ (setCache s e x).scan = s.scan ∧ (setCache s e x).trailers = s.trailers ∧
    (setCache s e x).reports = s.reports ∧ (setCache s e x).memOut = s.memOut ∧ (setCache s e x).ctlOut = s.ctlOut ∧
    (setCache s e x).free = s.free ∧ (setCache s e x).pending = s.pending := by
  and_intros <;> rfl

@[simp] theorem walkWaitList_keeps (s : State) :
    (walkWaitList s).resetN = s.resetN ∧ (walkWaitList s).lrstN = s.lrstN ∧ (walkWaitList s).part = s.part ∧
    (walkWaitList s).decoder = s.decoder ∧ (walkWaitList s).setup = s.setup ∧ (walkWaitList s).start = s.start ∧
    (walkWaitList s).traffic = s.traffic ∧ (walkWaitList s).commit = s.commit ∧ (walkWaitList s).offers = s.offers ∧
    (walkWaitList s).seats = s.seats ∧ (walkWaitList s).journal = s.journal ∧ (walkWaitList s).holds = s.holds ∧
    (walkWaitList s).clock = s.clock ∧ (walkWaitList s).due = s.due ∧ (walkWaitList s).roster = s.roster ∧
    (walkWaitList s).painter = s.painter ∧ (walkWaitList s).scan = s.scan ∧ (walkWaitList s).trailers = s.trailers ∧
    (walkWaitList s).reports = s.reports ∧ (walkWaitList s).memOut = s.memOut ∧ (walkWaitList s).ctlOut = s.ctlOut ∧
    (walkWaitList s).free = s.free ∧ (walkWaitList s).pending = s.pending := by
  and_intros <;> rfl

@[simp] theorem leaveState_keeps (s : State) (n : NoticeIx) :
    (leaveState s n).resetN = s.resetN ∧ (leaveState s n).lrstN = s.lrstN ∧ (leaveState s n).part = s.part ∧
    (leaveState s n).decoder = s.decoder ∧ (leaveState s n).setup = s.setup ∧ (leaveState s n).start = s.start ∧
    (leaveState s n).traffic = s.traffic ∧ (leaveState s n).commit = s.commit ∧ (leaveState s n).offers = s.offers ∧
    (leaveState s n).seats = s.seats ∧ (leaveState s n).journal = s.journal ∧ (leaveState s n).holds = s.holds ∧
    (leaveState s n).clock = s.clock ∧ (leaveState s n).due = s.due ∧ (leaveState s n).roster = s.roster ∧
    (leaveState s n).painter = s.painter ∧ (leaveState s n).scan = s.scan ∧ (leaveState s n).trailers = s.trailers ∧
    (leaveState s n).reports = s.reports ∧ (leaveState s n).memOut = s.memOut ∧ (leaveState s n).ctlOut = s.ctlOut ∧
    (leaveState s n).free = s.free ∧ (leaveState s n).pending = s.pending := by
  and_intros <;> rfl

@[simp] theorem takeFields_keeps (s : State) (n : NoticeIx) (f : NoticeFields) :
    (takeFields s n f).resetN = s.resetN ∧ (takeFields s n f).lrstN = s.lrstN ∧ (takeFields s n f).part = s.part ∧
    (takeFields s n f).decoder = s.decoder ∧ (takeFields s n f).setup = s.setup ∧ (takeFields s n f).start = s.start ∧
    (takeFields s n f).traffic = s.traffic ∧ (takeFields s n f).commit = s.commit ∧
    (takeFields s n f).offers = s.offers ∧ (takeFields s n f).seats = s.seats ∧
    (takeFields s n f).journal = s.journal ∧ (takeFields s n f).holds = s.holds ∧ (takeFields s n f).clock = s.clock ∧
    (takeFields s n f).due = s.due ∧ (takeFields s n f).roster = s.roster ∧ (takeFields s n f).painter = s.painter ∧
    (takeFields s n f).scan = s.scan ∧ (takeFields s n f).trailers = s.trailers ∧
    (takeFields s n f).reports = s.reports ∧ (takeFields s n f).memOut = s.memOut ∧
    (takeFields s n f).ctlOut = s.ctlOut ∧ (takeFields s n f).free = s.free ∧ (takeFields s n f).pending = s.pending := by
  and_intros <;> rfl

@[simp] theorem activateLine_keeps (s : State) (n : NoticeIx) :
    (activateLine s n).resetN = s.resetN ∧ (activateLine s n).lrstN = s.lrstN ∧ (activateLine s n).part = s.part ∧
    (activateLine s n).decoder = s.decoder ∧ (activateLine s n).setup = s.setup ∧ (activateLine s n).start = s.start ∧
    (activateLine s n).traffic = s.traffic ∧ (activateLine s n).commit = s.commit ∧
    (activateLine s n).offers = s.offers ∧ (activateLine s n).seats = s.seats ∧
    (activateLine s n).journal = s.journal ∧ (activateLine s n).holds = s.holds ∧ (activateLine s n).clock = s.clock ∧
    (activateLine s n).due = s.due ∧ (activateLine s n).roster = s.roster ∧ (activateLine s n).painter = s.painter ∧
    (activateLine s n).scan = s.scan ∧ (activateLine s n).trailers = s.trailers ∧
    (activateLine s n).reports = s.reports ∧ (activateLine s n).memOut = s.memOut ∧
    (activateLine s n).ctlOut = s.ctlOut ∧ (activateLine s n).free = s.free ∧ (activateLine s n).pending = s.pending := by
  and_intros <;> rfl

@[simp] theorem setStream_keeps (s : State) (i : StreamIx) (x : Stream) :
    (setStream s i x).resetN = s.resetN ∧ (setStream s i x).lrstN = s.lrstN ∧ (setStream s i x).part = s.part ∧
    (setStream s i x).decoder = s.decoder ∧ (setStream s i x).setup = s.setup ∧ (setStream s i x).start = s.start ∧
    (setStream s i x).traffic = s.traffic ∧ (setStream s i x).commit = s.commit ∧
    (setStream s i x).offers = s.offers ∧ (setStream s i x).seats = s.seats ∧ (setStream s i x).journal = s.journal ∧
    (setStream s i x).holds = s.holds ∧ (setStream s i x).clock = s.clock ∧ (setStream s i x).due = s.due ∧
    (setStream s i x).roster = s.roster ∧ (setStream s i x).painter = s.painter ∧
    (setStream s i x).notices = s.notices ∧ (setStream s i x).scan = s.scan ∧ (setStream s i x).reports = s.reports ∧
    (setStream s i x).memOut = s.memOut ∧ (setStream s i x).ctlOut = s.ctlOut ∧ (setStream s i x).free = s.free ∧
    (setStream s i x).pending = s.pending := by
  and_intros <;> rfl

@[simp] theorem latchSlot_keeps (s : State) (i : StreamIx) (k : FrameIx) :
    (latchSlot s i k).resetN = s.resetN ∧ (latchSlot s i k).lrstN = s.lrstN ∧ (latchSlot s i k).part = s.part ∧
    (latchSlot s i k).decoder = s.decoder ∧ (latchSlot s i k).setup = s.setup ∧ (latchSlot s i k).start = s.start ∧
    (latchSlot s i k).traffic = s.traffic ∧ (latchSlot s i k).commit = s.commit ∧
    (latchSlot s i k).offers = s.offers ∧ (latchSlot s i k).seats = s.seats ∧ (latchSlot s i k).journal = s.journal ∧
    (latchSlot s i k).holds = s.holds ∧ (latchSlot s i k).clock = s.clock ∧ (latchSlot s i k).due = s.due ∧
    (latchSlot s i k).roster = s.roster ∧ (latchSlot s i k).painter = s.painter ∧
    (latchSlot s i k).notices = s.notices ∧ (latchSlot s i k).scan = s.scan ∧ (latchSlot s i k).reports = s.reports ∧
    (latchSlot s i k).memOut = s.memOut ∧ (latchSlot s i k).ctlOut = s.ctlOut ∧ (latchSlot s i k).free = s.free ∧
    (latchSlot s i k).pending = s.pending := by
  and_intros <;> rfl

@[simp] theorem setScan_keeps (s : State) (p : PanelIx) (x : PanelScan) :
    (setScan s p x).resetN = s.resetN ∧ (setScan s p x).lrstN = s.lrstN ∧ (setScan s p x).part = s.part ∧
    (setScan s p x).decoder = s.decoder ∧ (setScan s p x).setup = s.setup ∧ (setScan s p x).start = s.start ∧
    (setScan s p x).traffic = s.traffic ∧ (setScan s p x).commit = s.commit ∧ (setScan s p x).offers = s.offers ∧
    (setScan s p x).seats = s.seats ∧ (setScan s p x).journal = s.journal ∧ (setScan s p x).holds = s.holds ∧
    (setScan s p x).clock = s.clock ∧ (setScan s p x).due = s.due ∧ (setScan s p x).roster = s.roster ∧
    (setScan s p x).painter = s.painter ∧ (setScan s p x).notices = s.notices ∧
    (setScan s p x).trailers = s.trailers ∧ (setScan s p x).reports = s.reports ∧ (setScan s p x).memOut = s.memOut ∧
    (setScan s p x).ctlOut = s.ctlOut ∧ (setScan s p x).free = s.free ∧ (setScan s p x).pending = s.pending := by
  and_intros <;> rfl

@[simp] theorem handRotation_keeps (s : State) (i : StreamIx) (bs : List Byte) :
    (handRotation s i bs).resetN = s.resetN ∧ (handRotation s i bs).lrstN = s.lrstN ∧
    (handRotation s i bs).part = s.part ∧ (handRotation s i bs).decoder = s.decoder ∧
    (handRotation s i bs).setup = s.setup ∧ (handRotation s i bs).start = s.start ∧
    (handRotation s i bs).traffic = s.traffic ∧ (handRotation s i bs).commit = s.commit ∧
    (handRotation s i bs).offers = s.offers ∧ (handRotation s i bs).seats = s.seats ∧
    (handRotation s i bs).journal = s.journal ∧ (handRotation s i bs).holds = s.holds ∧
    (handRotation s i bs).clock = s.clock ∧ (handRotation s i bs).due = s.due ∧
    (handRotation s i bs).roster = s.roster ∧ (handRotation s i bs).painter = s.painter ∧
    (handRotation s i bs).notices = s.notices ∧ (handRotation s i bs).scan = s.scan ∧
    (handRotation s i bs).reports = s.reports ∧ (handRotation s i bs).memOut = s.memOut ∧
    (handRotation s i bs).ctlOut = s.ctlOut ∧ (handRotation s i bs).free = s.free ∧
    (handRotation s i bs).pending = s.pending := by
  and_intros <;> rfl

@[simp] theorem setFetchState_keeps (s : State) (r : RecordId) (f : FetchState) :
    (setFetchState s r f).resetN = s.resetN ∧ (setFetchState s r f).lrstN = s.lrstN ∧
    (setFetchState s r f).part = s.part ∧ (setFetchState s r f).decoder = s.decoder ∧
    (setFetchState s r f).setup = s.setup ∧ (setFetchState s r f).start = s.start ∧
    (setFetchState s r f).traffic = s.traffic ∧ (setFetchState s r f).offers = s.offers ∧
    (setFetchState s r f).seats = s.seats ∧ (setFetchState s r f).journal = s.journal ∧
    (setFetchState s r f).holds = s.holds ∧ (setFetchState s r f).clock = s.clock ∧
    (setFetchState s r f).due = s.due ∧ (setFetchState s r f).roster = s.roster ∧
    (setFetchState s r f).painter = s.painter ∧ (setFetchState s r f).notices = s.notices ∧
    (setFetchState s r f).scan = s.scan ∧ (setFetchState s r f).trailers = s.trailers ∧
    (setFetchState s r f).reports = s.reports ∧ (setFetchState s r f).memOut = s.memOut ∧
    (setFetchState s r f).ctlOut = s.ctlOut ∧ (setFetchState s r f).free = s.free ∧
    (setFetchState s r f).pending = s.pending := by
  and_intros <;> rfl

@[simp] theorem requeue_keeps (s : State) (r : RecordId) :
    (requeue s r).resetN = s.resetN ∧ (requeue s r).lrstN = s.lrstN ∧ (requeue s r).part = s.part ∧
    (requeue s r).decoder = s.decoder ∧ (requeue s r).setup = s.setup ∧ (requeue s r).start = s.start ∧
    (requeue s r).traffic = s.traffic ∧ (requeue s r).offers = s.offers ∧ (requeue s r).seats = s.seats ∧
    (requeue s r).journal = s.journal ∧ (requeue s r).holds = s.holds ∧ (requeue s r).clock = s.clock ∧
    (requeue s r).due = s.due ∧ (requeue s r).roster = s.roster ∧ (requeue s r).painter = s.painter ∧
    (requeue s r).notices = s.notices ∧ (requeue s r).scan = s.scan ∧ (requeue s r).trailers = s.trailers ∧
    (requeue s r).reports = s.reports ∧ (requeue s r).memOut = s.memOut ∧ (requeue s r).ctlOut = s.ctlOut ∧
    (requeue s r).free = s.free ∧ (requeue s r).pending = s.pending := by
  and_intros <;> rfl

@[simp] theorem setRev_keeps (s : State) (r : RecordId) (v : Byte) :
    (setRev s r v).resetN = s.resetN ∧ (setRev s r v).lrstN = s.lrstN ∧ (setRev s r v).part = s.part ∧
    (setRev s r v).decoder = s.decoder ∧ (setRev s r v).setup = s.setup ∧ (setRev s r v).start = s.start ∧
    (setRev s r v).traffic = s.traffic ∧ (setRev s r v).offers = s.offers ∧ (setRev s r v).seats = s.seats ∧
    (setRev s r v).journal = s.journal ∧ (setRev s r v).holds = s.holds ∧ (setRev s r v).clock = s.clock ∧
    (setRev s r v).due = s.due ∧ (setRev s r v).roster = s.roster ∧ (setRev s r v).painter = s.painter ∧
    (setRev s r v).notices = s.notices ∧ (setRev s r v).scan = s.scan ∧ (setRev s r v).trailers = s.trailers ∧
    (setRev s r v).reports = s.reports ∧ (setRev s r v).memOut = s.memOut ∧ (setRev s r v).ctlOut = s.ctlOut ∧
    (setRev s r v).free = s.free ∧ (setRev s r v).pending = s.pending := by
  and_intros <;> rfl

@[simp] theorem consumerWritten_keeps (s : State) (v : Byte) :
    (consumerWritten s v).resetN = s.resetN ∧ (consumerWritten s v).lrstN = s.lrstN ∧
    (consumerWritten s v).part = s.part ∧ (consumerWritten s v).decoder = s.decoder ∧
    (consumerWritten s v).setup = s.setup ∧ (consumerWritten s v).start = s.start ∧
    (consumerWritten s v).traffic = s.traffic ∧ (consumerWritten s v).commit = s.commit ∧
    (consumerWritten s v).offers = s.offers ∧ (consumerWritten s v).seats = s.seats ∧
    (consumerWritten s v).journal = s.journal ∧ (consumerWritten s v).holds = s.holds ∧
    (consumerWritten s v).clock = s.clock ∧ (consumerWritten s v).due = s.due ∧
    (consumerWritten s v).roster = s.roster ∧ (consumerWritten s v).painter = s.painter ∧
    (consumerWritten s v).notices = s.notices ∧ (consumerWritten s v).scan = s.scan ∧
    (consumerWritten s v).trailers = s.trailers ∧ (consumerWritten s v).memOut = s.memOut ∧
    (consumerWritten s v).ctlOut = s.ctlOut ∧ (consumerWritten s v).free = s.free ∧
    (consumerWritten s v).pending = s.pending := by
  and_intros <;> rfl

@[simp] theorem withholdSecond_keeps (s : State) :
    (withholdSecond s).resetN = s.resetN ∧ (withholdSecond s).lrstN = s.lrstN ∧ (withholdSecond s).part = s.part ∧
    (withholdSecond s).decoder = s.decoder ∧ (withholdSecond s).setup = s.setup ∧ (withholdSecond s).start = s.start ∧
    (withholdSecond s).traffic = s.traffic ∧ (withholdSecond s).commit = s.commit ∧
    (withholdSecond s).offers = s.offers ∧ (withholdSecond s).seats = s.seats ∧
    (withholdSecond s).journal = s.journal ∧ (withholdSecond s).holds = s.holds ∧ (withholdSecond s).due = s.due ∧
    (withholdSecond s).roster = s.roster ∧ (withholdSecond s).painter = s.painter ∧
    (withholdSecond s).notices = s.notices ∧ (withholdSecond s).scan = s.scan ∧
    (withholdSecond s).trailers = s.trailers ∧ (withholdSecond s).reports = s.reports ∧
    (withholdSecond s).memOut = s.memOut ∧ (withholdSecond s).ctlOut = s.ctlOut ∧ (withholdSecond s).free = s.free ∧
    (withholdSecond s).pending = s.pending := by
  and_intros <;> rfl

@[simp] theorem keepTimeSet_keeps (s : State) (v : LobbyTime) :
    (keepTimeSet s v).resetN = s.resetN ∧ (keepTimeSet s v).lrstN = s.lrstN ∧ (keepTimeSet s v).part = s.part ∧
    (keepTimeSet s v).decoder = s.decoder ∧ (keepTimeSet s v).setup = s.setup ∧ (keepTimeSet s v).start = s.start ∧
    (keepTimeSet s v).traffic = s.traffic ∧ (keepTimeSet s v).commit = s.commit ∧
    (keepTimeSet s v).offers = s.offers ∧ (keepTimeSet s v).seats = s.seats ∧ (keepTimeSet s v).journal = s.journal ∧
    (keepTimeSet s v).holds = s.holds ∧ (keepTimeSet s v).due = s.due ∧ (keepTimeSet s v).roster = s.roster ∧
    (keepTimeSet s v).painter = s.painter ∧ (keepTimeSet s v).notices = s.notices ∧ (keepTimeSet s v).scan = s.scan ∧
    (keepTimeSet s v).trailers = s.trailers ∧ (keepTimeSet s v).reports = s.reports ∧
    (keepTimeSet s v).memOut = s.memOut ∧ (keepTimeSet s v).ctlOut = s.ctlOut ∧ (keepTimeSet s v).free = s.free ∧
    (keepTimeSet s v).pending = s.pending := by
  and_intros <;> rfl

@[simp] theorem ownGranted_keeps (s : State) (r : Requester) :
    (ownGranted s r).resetN = s.resetN ∧ (ownGranted s r).lrstN = s.lrstN ∧ (ownGranted s r).part = s.part ∧
    (ownGranted s r).decoder = s.decoder ∧ (ownGranted s r).setup = s.setup ∧ (ownGranted s r).start = s.start ∧
    (ownGranted s r).commit = s.commit ∧ (ownGranted s r).offers = s.offers ∧ (ownGranted s r).seats = s.seats ∧
    (ownGranted s r).journal = s.journal ∧ (ownGranted s r).holds = s.holds ∧ (ownGranted s r).clock = s.clock ∧
    (ownGranted s r).due = s.due ∧ (ownGranted s r).roster = s.roster ∧ (ownGranted s r).painter = s.painter ∧
    (ownGranted s r).notices = s.notices ∧ (ownGranted s r).scan = s.scan ∧ (ownGranted s r).trailers = s.trailers ∧
    (ownGranted s r).reports = s.reports ∧ (ownGranted s r).memOut = s.memOut ∧ (ownGranted s r).ctlOut = s.ctlOut ∧
    (ownGranted s r).free = s.free ∧ (ownGranted s r).pending = s.pending := by
  and_intros <;> rfl

@[simp] theorem beginBuild_keeps (s : State) (b : Bool) :
    (beginBuild s b).resetN = s.resetN ∧ (beginBuild s b).lrstN = s.lrstN ∧ (beginBuild s b).part = s.part ∧
    (beginBuild s b).decoder = s.decoder ∧ (beginBuild s b).setup = s.setup ∧ (beginBuild s b).traffic = s.traffic ∧
    (beginBuild s b).commit = s.commit ∧ (beginBuild s b).offers = s.offers ∧ (beginBuild s b).seats = s.seats ∧
    (beginBuild s b).journal = s.journal ∧ (beginBuild s b).holds = s.holds ∧ (beginBuild s b).clock = s.clock ∧
    (beginBuild s b).due = s.due ∧ (beginBuild s b).roster = s.roster ∧ (beginBuild s b).painter = s.painter ∧
    (beginBuild s b).notices = s.notices ∧ (beginBuild s b).scan = s.scan ∧ (beginBuild s b).trailers = s.trailers ∧
    (beginBuild s b).reports = s.reports ∧ (beginBuild s b).memOut = s.memOut ∧ (beginBuild s b).ctlOut = s.ctlOut ∧
    (beginBuild s b).free = s.free ∧ (beginBuild s b).pending = s.pending := by
  and_intros <;> rfl

@[simp] theorem enterQuiet_keeps (s : State) :
    (enterQuiet s).resetN = s.resetN ∧ (enterQuiet s).lrstN = s.lrstN ∧ (enterQuiet s).decoder = s.decoder ∧
    (enterQuiet s).setup = s.setup ∧ (enterQuiet s).start = s.start ∧ (enterQuiet s).traffic = s.traffic ∧
    (enterQuiet s).commit = s.commit ∧ (enterQuiet s).offers = s.offers ∧ (enterQuiet s).seats = s.seats ∧
    (enterQuiet s).journal = s.journal ∧ (enterQuiet s).holds = s.holds ∧ (enterQuiet s).clock = s.clock ∧
    (enterQuiet s).due = s.due ∧ (enterQuiet s).roster = s.roster ∧ (enterQuiet s).notices = s.notices ∧
    (enterQuiet s).scan = s.scan ∧ (enterQuiet s).trailers = s.trailers ∧ (enterQuiet s).reports = s.reports ∧
    (enterQuiet s).memOut = s.memOut ∧ (enterQuiet s).ctlOut = s.ctlOut ∧ (enterQuiet s).free = s.free ∧
    (enterQuiet s).pending = s.pending := by
  and_intros <;> rfl

@[simp] theorem beginLoad_keeps (s : State) (b : BitVec 3) :
    (beginLoad s b).lrstN = s.lrstN ∧ (beginLoad s b).decoder = s.decoder ∧ (beginLoad s b).setup = s.setup ∧
    (beginLoad s b).traffic = s.traffic ∧ (beginLoad s b).commit = s.commit ∧ (beginLoad s b).offers = s.offers ∧
    (beginLoad s b).seats = s.seats ∧ (beginLoad s b).journal = s.journal ∧ (beginLoad s b).holds = s.holds ∧
    (beginLoad s b).clock = s.clock ∧ (beginLoad s b).due = s.due ∧ (beginLoad s b).roster = s.roster ∧
    (beginLoad s b).painter = s.painter ∧ (beginLoad s b).notices = s.notices ∧ (beginLoad s b).scan = s.scan ∧
    (beginLoad s b).trailers = s.trailers ∧ (beginLoad s b).reports = s.reports ∧ (beginLoad s b).memOut = s.memOut ∧
    (beginLoad s b).ctlOut = s.ctlOut ∧ (beginLoad s b).free = s.free ∧ (beginLoad s b).pending = s.pending := by
  and_intros <;> rfl

@[simp] theorem linkReset_keeps (s : State) :
    (linkReset s).resetN = s.resetN ∧ (linkReset s).lrstN = s.lrstN ∧ (linkReset s).part = s.part ∧
    (linkReset s).decoder = s.decoder ∧ (linkReset s).setup = s.setup ∧ (linkReset s).start = s.start ∧
    (linkReset s).commit = s.commit ∧ (linkReset s).offers = s.offers ∧ (linkReset s).seats = s.seats ∧
    (linkReset s).journal = s.journal ∧ (linkReset s).holds = s.holds ∧ (linkReset s).clock = s.clock ∧
    (linkReset s).due = s.due ∧ (linkReset s).roster = s.roster ∧ (linkReset s).painter = s.painter ∧
    (linkReset s).notices = s.notices ∧ (linkReset s).scan = s.scan ∧ (linkReset s).trailers = s.trailers ∧
    (linkReset s).reports = s.reports ∧ (linkReset s).memOut = s.memOut ∧ (linkReset s).ctlOut = s.ctlOut ∧
    (linkReset s).free = s.free ∧ (linkReset s).pending = s.pending := by
  and_intros <;> rfl

@[simp] theorem admit_keeps (s : State) (c : CtlTag) (e : InFlight) :
    (enlist s c e).resetN = s.resetN ∧ (enlist s c e).lrstN = s.lrstN ∧ (enlist s c e).part = s.part ∧
    (enlist s c e).decoder = s.decoder ∧ (enlist s c e).setup = s.setup ∧ (enlist s c e).start = s.start ∧
    (enlist s c e).commit = s.commit ∧ (enlist s c e).offers = s.offers ∧ (enlist s c e).seats = s.seats ∧
    (enlist s c e).journal = s.journal ∧ (enlist s c e).holds = s.holds ∧ (enlist s c e).clock = s.clock ∧
    (enlist s c e).due = s.due ∧ (enlist s c e).roster = s.roster ∧ (enlist s c e).painter = s.painter ∧
    (enlist s c e).notices = s.notices ∧ (enlist s c e).scan = s.scan ∧ (enlist s c e).trailers = s.trailers ∧
    (enlist s c e).reports = s.reports ∧ (enlist s c e).memOut = s.memOut ∧ (enlist s c e).ctlOut = s.ctlOut ∧
    (enlist s c e).free = s.free ∧ (enlist s c e).pending = s.pending := by
  and_intros <;> rfl

@[simp] theorem markForwarded_keeps (s : State) (c : CtlTag) (e : InFlight) :
    (markForwarded s c e).resetN = s.resetN ∧ (markForwarded s c e).lrstN = s.lrstN ∧
    (markForwarded s c e).part = s.part ∧ (markForwarded s c e).decoder = s.decoder ∧
    (markForwarded s c e).setup = s.setup ∧ (markForwarded s c e).start = s.start ∧
    (markForwarded s c e).commit = s.commit ∧ (markForwarded s c e).offers = s.offers ∧
    (markForwarded s c e).seats = s.seats ∧ (markForwarded s c e).journal = s.journal ∧
    (markForwarded s c e).holds = s.holds ∧ (markForwarded s c e).clock = s.clock ∧
    (markForwarded s c e).due = s.due ∧ (markForwarded s c e).roster = s.roster ∧
    (markForwarded s c e).painter = s.painter ∧ (markForwarded s c e).notices = s.notices ∧
    (markForwarded s c e).scan = s.scan ∧ (markForwarded s c e).trailers = s.trailers ∧
    (markForwarded s c e).reports = s.reports ∧ (markForwarded s c e).memOut = s.memOut ∧
    (markForwarded s c e).ctlOut = s.ctlOut ∧ (markForwarded s c e).free = s.free ∧
    (markForwarded s c e).pending = s.pending := by
  and_intros <;> rfl

end Sys2Proof.Machine
end

