-- ==== Sys2Proof/Laws/Boards.lean ====
section
/-! SUPPORT. The Cell Painter and the Roster Unit: offers, the redraw-pending walk, line content and layouts. What each operation leaves unchanged, field by field; `simp` uses every one of these facts. -/

namespace Sys2Proof.Machine

@[simp] theorem enqueueCell_keeps (s : State) (r : CellRef) :
    (enqueueCell s r).resetN = s.resetN ∧ (enqueueCell s r).lrstN = s.lrstN ∧ (enqueueCell s r).part = s.part ∧
    (enqueueCell s r).decoder = s.decoder ∧ (enqueueCell s r).setup = s.setup ∧ (enqueueCell s r).start = s.start ∧
    (enqueueCell s r).traffic = s.traffic ∧ (enqueueCell s r).commit = s.commit ∧
    (enqueueCell s r).offers = s.offers ∧ (enqueueCell s r).seats = s.seats ∧ (enqueueCell s r).journal = s.journal ∧
    (enqueueCell s r).holds = s.holds ∧ (enqueueCell s r).clock = s.clock ∧ (enqueueCell s r).due = s.due ∧
    (enqueueCell s r).roster = s.roster ∧ (enqueueCell s r).notices = s.notices ∧ (enqueueCell s r).scan = s.scan ∧
    (enqueueCell s r).trailers = s.trailers ∧ (enqueueCell s r).reports = s.reports ∧
    (enqueueCell s r).memOut = s.memOut ∧ (enqueueCell s r).ctlOut = s.ctlOut ∧ (enqueueCell s r).free = s.free ∧
    (enqueueCell s r).pending = s.pending := by
  unfold enqueueCell
  dsimp only
  (repeat' split) <;> simp

@[simp] theorem offer_keeps (s : State) (r : CellRef) (b : Bool) :
    (offer s r b).resetN = s.resetN ∧ (offer s r b).lrstN = s.lrstN ∧ (offer s r b).part = s.part ∧
    (offer s r b).decoder = s.decoder ∧ (offer s r b).setup = s.setup ∧ (offer s r b).start = s.start ∧
    (offer s r b).traffic = s.traffic ∧ (offer s r b).commit = s.commit ∧ (offer s r b).offers = s.offers ∧
    (offer s r b).seats = s.seats ∧ (offer s r b).journal = s.journal ∧ (offer s r b).holds = s.holds ∧
    (offer s r b).clock = s.clock ∧ (offer s r b).due = s.due ∧ (offer s r b).roster = s.roster ∧
    (offer s r b).notices = s.notices ∧ (offer s r b).scan = s.scan ∧ (offer s r b).trailers = s.trailers ∧
    (offer s r b).reports = s.reports ∧ (offer s r b).memOut = s.memOut ∧ (offer s r b).ctlOut = s.ctlOut ∧
    (offer s r b).free = s.free ∧ (offer s r b).pending = s.pending := by
  unfold offer
  dsimp only
  (repeat' split) <;> simp

@[simp] theorem walkLine_keeps (s : State) (p : PanelIx) (l : LineIx) :
    ((walkLine s p l).1).resetN = s.resetN ∧ ((walkLine s p l).1).lrstN = s.lrstN ∧
    ((walkLine s p l).1).part = s.part ∧ ((walkLine s p l).1).decoder = s.decoder ∧
    ((walkLine s p l).1).setup = s.setup ∧ ((walkLine s p l).1).start = s.start ∧
    ((walkLine s p l).1).traffic = s.traffic ∧ ((walkLine s p l).1).commit = s.commit ∧
    ((walkLine s p l).1).offers = s.offers ∧ ((walkLine s p l).1).seats = s.seats ∧
    ((walkLine s p l).1).journal = s.journal ∧ ((walkLine s p l).1).holds = s.holds ∧
    ((walkLine s p l).1).clock = s.clock ∧ ((walkLine s p l).1).due = s.due ∧ ((walkLine s p l).1).roster = s.roster ∧
    ((walkLine s p l).1).notices = s.notices ∧ ((walkLine s p l).1).scan = s.scan ∧
    ((walkLine s p l).1).trailers = s.trailers ∧ ((walkLine s p l).1).reports = s.reports ∧
    ((walkLine s p l).1).memOut = s.memOut ∧ ((walkLine s p l).1).ctlOut = s.ctlOut ∧
    ((walkLine s p l).1).free = s.free ∧ ((walkLine s p l).1).pending = s.pending := by
  have h : ∀ {γ : Type} (g : State → γ), (∀ s r, g (enqueueCell s r) = g s) →
      (∀ s b, g (setRedraw s p l b) = g s) → g (walkLine s p l).1 = g s := by
    intro γ g h1 h2
    have h3 := fun xs => foldl_keeps g (fun t r =>
      if leftOut t r && t.painter.queue.length < 256 then enqueueCell t r else t)
      (fun s a => by split <;> simp [h1]) xs s
    unfold walkLine
    dsimp only
    split
    · exact h3 _
    · exact (h2 _ _).trans (h3 _)
  exact ⟨h State.resetN (by simp) (by simp), h State.lrstN (by simp) (by simp), h State.part (by simp) (by simp),
    h State.decoder (by simp) (by simp), h State.setup (by simp) (by simp), h State.start (by simp) (by simp),
    h State.traffic (by simp) (by simp), h State.commit (by simp) (by simp),
    h State.offers (by simp) (by simp), h State.seats (by simp) (by simp),
    h State.journal (by simp) (by simp), h State.holds (by simp) (by simp), h State.clock (by simp) (by simp),
    h State.due (by simp) (by simp), h State.roster (by simp) (by simp), h State.notices (by simp) (by simp),
    h State.scan (by simp) (by simp), h State.trailers (by simp) (by simp),
    h State.reports (by simp) (by simp), h State.memOut (by simp) (by simp),
    h State.ctlOut (by simp) (by simp), h State.free (by simp) (by simp), h State.pending (by simp) (by simp)⟩

@[simp] theorem redrawWalk_keeps (s : State) :
    (redrawWalk s).resetN = s.resetN ∧ (redrawWalk s).lrstN = s.lrstN ∧ (redrawWalk s).part = s.part ∧
    (redrawWalk s).decoder = s.decoder ∧ (redrawWalk s).setup = s.setup ∧ (redrawWalk s).start = s.start ∧
    (redrawWalk s).traffic = s.traffic ∧ (redrawWalk s).commit = s.commit ∧ (redrawWalk s).offers = s.offers ∧
    (redrawWalk s).seats = s.seats ∧ (redrawWalk s).journal = s.journal ∧ (redrawWalk s).holds = s.holds ∧
    (redrawWalk s).clock = s.clock ∧ (redrawWalk s).due = s.due ∧ (redrawWalk s).roster = s.roster ∧
    (redrawWalk s).notices = s.notices ∧ (redrawWalk s).scan = s.scan ∧ (redrawWalk s).trailers = s.trailers ∧
    (redrawWalk s).reports = s.reports ∧ (redrawWalk s).memOut = s.memOut ∧ (redrawWalk s).ctlOut = s.ctlOut ∧
    (redrawWalk s).free = s.free ∧ (redrawWalk s).pending = s.pending := by
  have h : ∀ {γ : Type} (g : State → γ), (∀ s p l, g (walkLine s p l).1 = g s) → g (redrawWalk s) = g s := by
    intro γ g h1
    exact foldl_keeps (fun acc : State × Bool => g acc.1) _ (fun acc a => by split <;> simp [h1]) _ _
  exact ⟨h State.resetN (by simp), h State.lrstN (by simp), h State.part (by simp), h State.decoder (by simp),
    h State.setup (by simp), h State.start (by simp), h State.traffic (by simp), h State.commit (by simp),
    h State.offers (by simp), h State.seats (by simp), h State.journal (by simp), h State.holds (by simp),
    h State.clock (by simp), h State.due (by simp), h State.roster (by simp), h State.notices (by simp),
    h State.scan (by simp), h State.trailers (by simp), h State.reports (by simp), h State.memOut (by simp),
    h State.ctlOut (by simp), h State.free (by simp), h State.pending (by simp)⟩

@[simp] theorem walkIfLow_keeps (s : State) :
    (walkIfLow s).resetN = s.resetN ∧ (walkIfLow s).lrstN = s.lrstN ∧ (walkIfLow s).part = s.part ∧
    (walkIfLow s).decoder = s.decoder ∧ (walkIfLow s).setup = s.setup ∧ (walkIfLow s).start = s.start ∧
    (walkIfLow s).traffic = s.traffic ∧ (walkIfLow s).commit = s.commit ∧ (walkIfLow s).offers = s.offers ∧
    (walkIfLow s).seats = s.seats ∧ (walkIfLow s).journal = s.journal ∧ (walkIfLow s).holds = s.holds ∧
    (walkIfLow s).clock = s.clock ∧ (walkIfLow s).due = s.due ∧ (walkIfLow s).roster = s.roster ∧
    (walkIfLow s).notices = s.notices ∧ (walkIfLow s).scan = s.scan ∧ (walkIfLow s).trailers = s.trailers ∧
    (walkIfLow s).reports = s.reports ∧ (walkIfLow s).memOut = s.memOut ∧ (walkIfLow s).ctlOut = s.ctlOut ∧
    (walkIfLow s).free = s.free ∧ (walkIfLow s).pending = s.pending := by
  unfold walkIfLow
  (repeat' split) <;> simp

@[simp] theorem spoilCell_keeps (s : State) (r : CellRef) :
    (spoilCell s r).resetN = s.resetN ∧ (spoilCell s r).lrstN = s.lrstN ∧ (spoilCell s r).part = s.part ∧
    (spoilCell s r).decoder = s.decoder ∧ (spoilCell s r).setup = s.setup ∧ (spoilCell s r).start = s.start ∧
    (spoilCell s r).traffic = s.traffic ∧ (spoilCell s r).commit = s.commit ∧ (spoilCell s r).offers = s.offers ∧
    (spoilCell s r).seats = s.seats ∧ (spoilCell s r).journal = s.journal ∧ (spoilCell s r).holds = s.holds ∧
    (spoilCell s r).clock = s.clock ∧ (spoilCell s r).due = s.due ∧ (spoilCell s r).roster = s.roster ∧
    (spoilCell s r).notices = s.notices ∧ (spoilCell s r).scan = s.scan ∧ (spoilCell s r).trailers = s.trailers ∧
    (spoilCell s r).reports = s.reports ∧ (spoilCell s r).memOut = s.memOut ∧ (spoilCell s r).ctlOut = s.ctlOut ∧
    (spoilCell s r).free = s.free ∧ (spoilCell s r).pending = s.pending := by
  unfold spoilCell
  dsimp only
  (repeat' split) <;> simp

@[simp] theorem panelWrite_keeps (s : State) (p : PanelIx) (row : Nat) (cols : List Nat) :
    (panelWrite s p row cols).resetN = s.resetN ∧ (panelWrite s p row cols).lrstN = s.lrstN ∧
    (panelWrite s p row cols).part = s.part ∧ (panelWrite s p row cols).decoder = s.decoder ∧
    (panelWrite s p row cols).setup = s.setup ∧ (panelWrite s p row cols).start = s.start ∧
    (panelWrite s p row cols).traffic = s.traffic ∧ (panelWrite s p row cols).commit = s.commit ∧
    (panelWrite s p row cols).offers = s.offers ∧ (panelWrite s p row cols).seats = s.seats ∧
    (panelWrite s p row cols).journal = s.journal ∧ (panelWrite s p row cols).holds = s.holds ∧
    (panelWrite s p row cols).clock = s.clock ∧ (panelWrite s p row cols).due = s.due ∧
    (panelWrite s p row cols).roster = s.roster ∧ (panelWrite s p row cols).notices = s.notices ∧
    (panelWrite s p row cols).scan = s.scan ∧ (panelWrite s p row cols).trailers = s.trailers ∧
    (panelWrite s p row cols).reports = s.reports ∧ (panelWrite s p row cols).memOut = s.memOut ∧
    (panelWrite s p row cols).ctlOut = s.ctlOut ∧ (panelWrite s p row cols).free = s.free ∧
    (panelWrite s p row cols).pending = s.pending := by
  unfold panelWrite
  exact ⟨foldl_keeps State.resetN _ (by intros; simp) _ _, foldl_keeps State.lrstN _ (by intros; simp) _ _,
    foldl_keeps State.part _ (by intros; simp) _ _, foldl_keeps State.decoder _ (by intros; simp) _ _,
    foldl_keeps State.setup _ (by intros; simp) _ _, foldl_keeps State.start _ (by intros; simp) _ _,
    foldl_keeps State.traffic _ (by intros; simp) _ _, foldl_keeps State.commit _ (by intros; simp) _ _,
    foldl_keeps State.offers _ (by intros; simp) _ _, foldl_keeps State.seats _ (by intros; simp) _ _,
    foldl_keeps State.journal _ (by intros; simp) _ _, foldl_keeps State.holds _ (by intros; simp) _ _,
    foldl_keeps State.clock _ (by intros; simp) _ _, foldl_keeps State.due _ (by intros; simp) _ _,
    foldl_keeps State.roster _ (by intros; simp) _ _, foldl_keeps State.notices _ (by intros; simp) _ _,
    foldl_keeps State.scan _ (by intros; simp) _ _, foldl_keeps State.trailers _ (by intros; simp) _ _,
    foldl_keeps State.reports _ (by intros; simp) _ _, foldl_keeps State.memOut _ (by intros; simp) _ _,
    foldl_keeps State.ctlOut _ (by intros; simp) _ _, foldl_keeps State.free _ (by intros; simp) _ _,
    foldl_keeps State.pending _ (by intros; simp) _ _⟩

@[simp] theorem offerPanel_keeps (s : State) (p : PanelIx) :
    (offerPanel s p).resetN = s.resetN ∧ (offerPanel s p).lrstN = s.lrstN ∧ (offerPanel s p).part = s.part ∧
    (offerPanel s p).decoder = s.decoder ∧ (offerPanel s p).setup = s.setup ∧ (offerPanel s p).start = s.start ∧
    (offerPanel s p).traffic = s.traffic ∧ (offerPanel s p).commit = s.commit ∧ (offerPanel s p).offers = s.offers ∧
    (offerPanel s p).seats = s.seats ∧ (offerPanel s p).journal = s.journal ∧ (offerPanel s p).holds = s.holds ∧
    (offerPanel s p).clock = s.clock ∧ (offerPanel s p).due = s.due ∧ (offerPanel s p).roster = s.roster ∧
    (offerPanel s p).notices = s.notices ∧ (offerPanel s p).scan = s.scan ∧ (offerPanel s p).trailers = s.trailers ∧
    (offerPanel s p).reports = s.reports ∧ (offerPanel s p).memOut = s.memOut ∧ (offerPanel s p).ctlOut = s.ctlOut ∧
    (offerPanel s p).free = s.free ∧ (offerPanel s p).pending = s.pending := by
  unfold offerPanel
  exact ⟨foldl_keeps State.resetN _ (by intros; simp) _ _, foldl_keeps State.lrstN _ (by intros; simp) _ _,
    foldl_keeps State.part _ (by intros; simp) _ _, foldl_keeps State.decoder _ (by intros; simp) _ _,
    foldl_keeps State.setup _ (by intros; simp) _ _, foldl_keeps State.start _ (by intros; simp) _ _,
    foldl_keeps State.traffic _ (by intros; simp) _ _, foldl_keeps State.commit _ (by intros; simp) _ _,
    foldl_keeps State.offers _ (by intros; simp) _ _, foldl_keeps State.seats _ (by intros; simp) _ _,
    foldl_keeps State.journal _ (by intros; simp) _ _, foldl_keeps State.holds _ (by intros; simp) _ _,
    foldl_keeps State.clock _ (by intros; simp) _ _, foldl_keeps State.due _ (by intros; simp) _ _,
    foldl_keeps State.roster _ (by intros; simp) _ _, foldl_keeps State.notices _ (by intros; simp) _ _,
    foldl_keeps State.scan _ (by intros; simp) _ _, foldl_keeps State.trailers _ (by intros; simp) _ _,
    foldl_keeps State.reports _ (by intros; simp) _ _, foldl_keeps State.memOut _ (by intros; simp) _ _,
    foldl_keeps State.ctlOut _ (by intros; simp) _ _, foldl_keeps State.free _ (by intros; simp) _ _,
    foldl_keeps State.pending _ (by intros; simp) _ _⟩

@[simp] theorem storeLine_keeps (s : State) (p : PanelIx) (l : LineIx) :
    (storeLine s p l).resetN = s.resetN ∧ (storeLine s p l).lrstN = s.lrstN ∧ (storeLine s p l).part = s.part ∧
    (storeLine s p l).decoder = s.decoder ∧ (storeLine s p l).setup = s.setup ∧ (storeLine s p l).start = s.start ∧
    (storeLine s p l).traffic = s.traffic ∧ (storeLine s p l).commit = s.commit ∧
    (storeLine s p l).offers = s.offers ∧ (storeLine s p l).seats = s.seats ∧ (storeLine s p l).journal = s.journal ∧
    (storeLine s p l).holds = s.holds ∧ (storeLine s p l).clock = s.clock ∧ (storeLine s p l).due = s.due ∧
    (storeLine s p l).painter = s.painter ∧ (storeLine s p l).notices = s.notices ∧ (storeLine s p l).scan = s.scan ∧
    (storeLine s p l).trailers = s.trailers ∧ (storeLine s p l).reports = s.reports ∧
    (storeLine s p l).memOut = s.memOut ∧ (storeLine s p l).ctlOut = s.ctlOut ∧ (storeLine s p l).free = s.free ∧
    (storeLine s p l).pending = s.pending := by
  unfold storeLine
  dsimp only
  (repeat' split) <;> simp

@[simp] theorem computeLine_keeps (s : State) (p : PanelIx) (l : LineIx) :
    (computeLine s p l).resetN = s.resetN ∧ (computeLine s p l).lrstN = s.lrstN ∧ (computeLine s p l).part = s.part ∧
    (computeLine s p l).decoder = s.decoder ∧ (computeLine s p l).setup = s.setup ∧
    (computeLine s p l).start = s.start ∧ (computeLine s p l).traffic = s.traffic ∧
    (computeLine s p l).commit = s.commit ∧ (computeLine s p l).offers = s.offers ∧
    (computeLine s p l).seats = s.seats ∧ (computeLine s p l).journal = s.journal ∧
    (computeLine s p l).holds = s.holds ∧ (computeLine s p l).clock = s.clock ∧ (computeLine s p l).due = s.due ∧
    (computeLine s p l).notices = s.notices ∧ (computeLine s p l).scan = s.scan ∧
    (computeLine s p l).trailers = s.trailers ∧ (computeLine s p l).reports = s.reports ∧
    (computeLine s p l).memOut = s.memOut ∧ (computeLine s p l).ctlOut = s.ctlOut ∧
    (computeLine s p l).free = s.free ∧ (computeLine s p l).pending = s.pending := by
  have h : ∀ {γ : Type} (g : State → γ), (∀ s r b, g (offer s r b) = g s) → (g (storeLine s p l) = g s) →
      g (computeLine s p l) = g s := by
    intro γ g h1 h2
    exact (foldl_keeps g _ (fun s a => h1 s a true) _ _).trans h2
  exact ⟨h State.resetN (by simp) (by simp), h State.lrstN (by simp) (by simp), h State.part (by simp) (by simp),
    h State.decoder (by simp) (by simp), h State.setup (by simp) (by simp), h State.start (by simp) (by simp),
    h State.traffic (by simp) (by simp), h State.commit (by simp) (by simp),
    h State.offers (by simp) (by simp), h State.seats (by simp) (by simp),
    h State.journal (by simp) (by simp), h State.holds (by simp) (by simp), h State.clock (by simp) (by simp),
    h State.due (by simp) (by simp), h State.notices (by simp) (by simp), h State.scan (by simp) (by simp),
    h State.trailers (by simp) (by simp), h State.reports (by simp) (by simp),
    h State.memOut (by simp) (by simp), h State.ctlOut (by simp) (by simp), h State.free (by simp) (by simp),
    h State.pending (by simp) (by simp)⟩

@[simp] theorem computeLines_keeps (s : State) (p : PanelIx) (sel : LineIx → Bool) :
    (computeLines s p sel).resetN = s.resetN ∧ (computeLines s p sel).lrstN = s.lrstN ∧
    (computeLines s p sel).part = s.part ∧ (computeLines s p sel).decoder = s.decoder ∧
    (computeLines s p sel).setup = s.setup ∧ (computeLines s p sel).start = s.start ∧
    (computeLines s p sel).traffic = s.traffic ∧ (computeLines s p sel).commit = s.commit ∧
    (computeLines s p sel).offers = s.offers ∧ (computeLines s p sel).seats = s.seats ∧
    (computeLines s p sel).journal = s.journal ∧ (computeLines s p sel).holds = s.holds ∧
    (computeLines s p sel).clock = s.clock ∧ (computeLines s p sel).due = s.due ∧
    (computeLines s p sel).notices = s.notices ∧ (computeLines s p sel).scan = s.scan ∧
    (computeLines s p sel).trailers = s.trailers ∧ (computeLines s p sel).reports = s.reports ∧
    (computeLines s p sel).memOut = s.memOut ∧ (computeLines s p sel).ctlOut = s.ctlOut ∧
    (computeLines s p sel).free = s.free ∧ (computeLines s p sel).pending = s.pending := by
  unfold computeLines
  exact ⟨foldl_keeps State.resetN _ (by intros; simp) _ _, foldl_keeps State.lrstN _ (by intros; simp) _ _,
    foldl_keeps State.part _ (by intros; simp) _ _, foldl_keeps State.decoder _ (by intros; simp) _ _,
    foldl_keeps State.setup _ (by intros; simp) _ _, foldl_keeps State.start _ (by intros; simp) _ _,
    foldl_keeps State.traffic _ (by intros; simp) _ _, foldl_keeps State.commit _ (by intros; simp) _ _,
    foldl_keeps State.offers _ (by intros; simp) _ _, foldl_keeps State.seats _ (by intros; simp) _ _,
    foldl_keeps State.journal _ (by intros; simp) _ _, foldl_keeps State.holds _ (by intros; simp) _ _,
    foldl_keeps State.clock _ (by intros; simp) _ _, foldl_keeps State.due _ (by intros; simp) _ _,
    foldl_keeps State.notices _ (by intros; simp) _ _, foldl_keeps State.scan _ (by intros; simp) _ _,
    foldl_keeps State.trailers _ (by intros; simp) _ _, foldl_keeps State.reports _ (by intros; simp) _ _,
    foldl_keeps State.memOut _ (by intros; simp) _ _, foldl_keeps State.ctlOut _ (by intros; simp) _ _,
    foldl_keeps State.free _ (by intros; simp) _ _, foldl_keeps State.pending _ (by intros; simp) _ _⟩

@[simp] theorem recomputePanel_keeps (s : State) (w : Which) (p : PanelIx) :
    (recomputePanel s w p).resetN = s.resetN ∧ (recomputePanel s w p).lrstN = s.lrstN ∧
    (recomputePanel s w p).part = s.part ∧ (recomputePanel s w p).decoder = s.decoder ∧
    (recomputePanel s w p).setup = s.setup ∧ (recomputePanel s w p).start = s.start ∧
    (recomputePanel s w p).traffic = s.traffic ∧ (recomputePanel s w p).commit = s.commit ∧
    (recomputePanel s w p).offers = s.offers ∧ (recomputePanel s w p).seats = s.seats ∧
    (recomputePanel s w p).journal = s.journal ∧ (recomputePanel s w p).holds = s.holds ∧
    (recomputePanel s w p).clock = s.clock ∧ (recomputePanel s w p).due = s.due ∧
    (recomputePanel s w p).notices = s.notices ∧ (recomputePanel s w p).scan = s.scan ∧
    (recomputePanel s w p).trailers = s.trailers ∧ (recomputePanel s w p).reports = s.reports ∧
    (recomputePanel s w p).memOut = s.memOut ∧ (recomputePanel s w p).ctlOut = s.ctlOut ∧
    (recomputePanel s w p).free = s.free ∧ (recomputePanel s w p).pending = s.pending := by
  unfold recomputePanel
  dsimp only
  (repeat' split) <;> simp

@[simp] theorem recompute_keeps (s : State) (w : Which) (sel : PanelIx → Bool) :
    (recompute s w sel).resetN = s.resetN ∧ (recompute s w sel).lrstN = s.lrstN ∧ (recompute s w sel).part = s.part ∧
    (recompute s w sel).decoder = s.decoder ∧ (recompute s w sel).setup = s.setup ∧
    (recompute s w sel).start = s.start ∧ (recompute s w sel).traffic = s.traffic ∧
    (recompute s w sel).commit = s.commit ∧ (recompute s w sel).offers = s.offers ∧
    (recompute s w sel).seats = s.seats ∧ (recompute s w sel).journal = s.journal ∧
    (recompute s w sel).holds = s.holds ∧ (recompute s w sel).clock = s.clock ∧ (recompute s w sel).due = s.due ∧
    (recompute s w sel).notices = s.notices ∧ (recompute s w sel).scan = s.scan ∧
    (recompute s w sel).trailers = s.trailers ∧ (recompute s w sel).reports = s.reports ∧
    (recompute s w sel).memOut = s.memOut ∧ (recompute s w sel).ctlOut = s.ctlOut ∧
    (recompute s w sel).free = s.free ∧ (recompute s w sel).pending = s.pending := by
  unfold recompute
  exact ⟨foldl_keeps State.resetN _ (by intros; simp) _ _, foldl_keeps State.lrstN _ (by intros; simp) _ _,
    foldl_keeps State.part _ (by intros; simp) _ _, foldl_keeps State.decoder _ (by intros; simp) _ _,
    foldl_keeps State.setup _ (by intros; simp) _ _, foldl_keeps State.start _ (by intros; simp) _ _,
    foldl_keeps State.traffic _ (by intros; simp) _ _, foldl_keeps State.commit _ (by intros; simp) _ _,
    foldl_keeps State.offers _ (by intros; simp) _ _, foldl_keeps State.seats _ (by intros; simp) _ _,
    foldl_keeps State.journal _ (by intros; simp) _ _, foldl_keeps State.holds _ (by intros; simp) _ _,
    foldl_keeps State.clock _ (by intros; simp) _ _, foldl_keeps State.due _ (by intros; simp) _ _,
    foldl_keeps State.notices _ (by intros; simp) _ _, foldl_keeps State.scan _ (by intros; simp) _ _,
    foldl_keeps State.trailers _ (by intros; simp) _ _, foldl_keeps State.reports _ (by intros; simp) _ _,
    foldl_keeps State.memOut _ (by intros; simp) _ _, foldl_keeps State.ctlOut _ (by intros; simp) _ _,
    foldl_keeps State.free _ (by intros; simp) _ _, foldl_keeps State.pending _ (by intros; simp) _ _⟩

@[simp] theorem recomputeHalls_keeps (s : State) (hs : List HallIx) :
    (recomputeHalls s hs).resetN = s.resetN ∧ (recomputeHalls s hs).lrstN = s.lrstN ∧
    (recomputeHalls s hs).part = s.part ∧ (recomputeHalls s hs).decoder = s.decoder ∧
    (recomputeHalls s hs).setup = s.setup ∧ (recomputeHalls s hs).start = s.start ∧
    (recomputeHalls s hs).traffic = s.traffic ∧ (recomputeHalls s hs).commit = s.commit ∧
    (recomputeHalls s hs).offers = s.offers ∧ (recomputeHalls s hs).seats = s.seats ∧
    (recomputeHalls s hs).journal = s.journal ∧ (recomputeHalls s hs).holds = s.holds ∧
    (recomputeHalls s hs).clock = s.clock ∧ (recomputeHalls s hs).due = s.due ∧
    (recomputeHalls s hs).notices = s.notices ∧ (recomputeHalls s hs).scan = s.scan ∧
    (recomputeHalls s hs).trailers = s.trailers ∧ (recomputeHalls s hs).reports = s.reports ∧
    (recomputeHalls s hs).memOut = s.memOut ∧ (recomputeHalls s hs).ctlOut = s.ctlOut ∧
    (recomputeHalls s hs).free = s.free ∧ (recomputeHalls s hs).pending = s.pending := by
  simp [recomputeHalls]

@[simp] theorem recomputeClocks_keeps (s : State) :
    (recomputeClocks s).resetN = s.resetN ∧ (recomputeClocks s).lrstN = s.lrstN ∧ (recomputeClocks s).part = s.part ∧
    (recomputeClocks s).decoder = s.decoder ∧ (recomputeClocks s).setup = s.setup ∧
    (recomputeClocks s).start = s.start ∧ (recomputeClocks s).traffic = s.traffic ∧
    (recomputeClocks s).commit = s.commit ∧ (recomputeClocks s).offers = s.offers ∧
    (recomputeClocks s).seats = s.seats ∧ (recomputeClocks s).journal = s.journal ∧
    (recomputeClocks s).holds = s.holds ∧ (recomputeClocks s).clock = s.clock ∧ (recomputeClocks s).due = s.due ∧
    (recomputeClocks s).notices = s.notices ∧ (recomputeClocks s).scan = s.scan ∧
    (recomputeClocks s).trailers = s.trailers ∧ (recomputeClocks s).reports = s.reports ∧
    (recomputeClocks s).memOut = s.memOut ∧ (recomputeClocks s).ctlOut = s.ctlOut ∧
    (recomputeClocks s).free = s.free ∧ (recomputeClocks s).pending = s.pending := by
  simp [recomputeClocks]

@[simp] theorem recomputeAllTimes_keeps (s : State) :
    (recomputeAllTimes s).resetN = s.resetN ∧ (recomputeAllTimes s).lrstN = s.lrstN ∧
    (recomputeAllTimes s).part = s.part ∧ (recomputeAllTimes s).decoder = s.decoder ∧
    (recomputeAllTimes s).setup = s.setup ∧ (recomputeAllTimes s).start = s.start ∧
    (recomputeAllTimes s).traffic = s.traffic ∧ (recomputeAllTimes s).commit = s.commit ∧
    (recomputeAllTimes s).offers = s.offers ∧ (recomputeAllTimes s).seats = s.seats ∧
    (recomputeAllTimes s).journal = s.journal ∧ (recomputeAllTimes s).holds = s.holds ∧
    (recomputeAllTimes s).clock = s.clock ∧ (recomputeAllTimes s).due = s.due ∧
    (recomputeAllTimes s).notices = s.notices ∧ (recomputeAllTimes s).scan = s.scan ∧
    (recomputeAllTimes s).trailers = s.trailers ∧ (recomputeAllTimes s).reports = s.reports ∧
    (recomputeAllTimes s).memOut = s.memOut ∧ (recomputeAllTimes s).ctlOut = s.ctlOut ∧
    (recomputeAllTimes s).free = s.free ∧ (recomputeAllTimes s).pending = s.pending := by
  simp [recomputeAllTimes]

@[simp] theorem recomputeNotices_keeps (s : State) (m : BitVec 24) :
    (recomputeNotices s m).resetN = s.resetN ∧ (recomputeNotices s m).lrstN = s.lrstN ∧
    (recomputeNotices s m).part = s.part ∧ (recomputeNotices s m).decoder = s.decoder ∧
    (recomputeNotices s m).setup = s.setup ∧ (recomputeNotices s m).start = s.start ∧
    (recomputeNotices s m).traffic = s.traffic ∧ (recomputeNotices s m).commit = s.commit ∧
    (recomputeNotices s m).offers = s.offers ∧ (recomputeNotices s m).seats = s.seats ∧
    (recomputeNotices s m).journal = s.journal ∧ (recomputeNotices s m).holds = s.holds ∧
    (recomputeNotices s m).clock = s.clock ∧ (recomputeNotices s m).due = s.due ∧
    (recomputeNotices s m).notices = s.notices ∧ (recomputeNotices s m).scan = s.scan ∧
    (recomputeNotices s m).trailers = s.trailers ∧ (recomputeNotices s m).reports = s.reports ∧
    (recomputeNotices s m).memOut = s.memOut ∧ (recomputeNotices s m).ctlOut = s.ctlOut ∧
    (recomputeNotices s m).free = s.free ∧ (recomputeNotices s m).pending = s.pending := by
  simp [recomputeNotices]

@[simp] theorem recomputeTitle_keeps (s : State) (t : TitleIx) :
    (recomputeTitle s t).resetN = s.resetN ∧ (recomputeTitle s t).lrstN = s.lrstN ∧
    (recomputeTitle s t).part = s.part ∧ (recomputeTitle s t).decoder = s.decoder ∧
    (recomputeTitle s t).setup = s.setup ∧ (recomputeTitle s t).start = s.start ∧
    (recomputeTitle s t).traffic = s.traffic ∧ (recomputeTitle s t).commit = s.commit ∧
    (recomputeTitle s t).offers = s.offers ∧ (recomputeTitle s t).seats = s.seats ∧
    (recomputeTitle s t).journal = s.journal ∧ (recomputeTitle s t).holds = s.holds ∧
    (recomputeTitle s t).clock = s.clock ∧ (recomputeTitle s t).due = s.due ∧
    (recomputeTitle s t).notices = s.notices ∧ (recomputeTitle s t).scan = s.scan ∧
    (recomputeTitle s t).trailers = s.trailers ∧ (recomputeTitle s t).reports = s.reports ∧
    (recomputeTitle s t).memOut = s.memOut ∧ (recomputeTitle s t).ctlOut = s.ctlOut ∧
    (recomputeTitle s t).free = s.free ∧ (recomputeTitle s t).pending = s.pending := by
  unfold recomputeTitle
  exact ⟨foldl_keeps State.resetN _ (by intros; simp) _ _, foldl_keeps State.lrstN _ (by intros; simp) _ _,
    foldl_keeps State.part _ (by intros; simp) _ _, foldl_keeps State.decoder _ (by intros; simp) _ _,
    foldl_keeps State.setup _ (by intros; simp) _ _, foldl_keeps State.start _ (by intros; simp) _ _,
    foldl_keeps State.traffic _ (by intros; simp) _ _, foldl_keeps State.commit _ (by intros; simp) _ _,
    foldl_keeps State.offers _ (by intros; simp) _ _, foldl_keeps State.seats _ (by intros; simp) _ _,
    foldl_keeps State.journal _ (by intros; simp) _ _, foldl_keeps State.holds _ (by intros; simp) _ _,
    foldl_keeps State.clock _ (by intros; simp) _ _, foldl_keeps State.due _ (by intros; simp) _ _,
    foldl_keeps State.notices _ (by intros; simp) _ _, foldl_keeps State.scan _ (by intros; simp) _ _,
    foldl_keeps State.trailers _ (by intros; simp) _ _, foldl_keeps State.reports _ (by intros; simp) _ _,
    foldl_keeps State.memOut _ (by intros; simp) _ _, foldl_keeps State.ctlOut _ (by intros; simp) _ _,
    foldl_keeps State.free _ (by intros; simp) _ _, foldl_keeps State.pending _ (by intros; simp) _ _⟩

@[simp] theorem handTitle_keeps (s : State) (t : TitleIx) (bs : List Byte) :
    (handTitle s t bs).resetN = s.resetN ∧ (handTitle s t bs).lrstN = s.lrstN ∧ (handTitle s t bs).part = s.part ∧
    (handTitle s t bs).decoder = s.decoder ∧ (handTitle s t bs).setup = s.setup ∧ (handTitle s t bs).start = s.start ∧
    (handTitle s t bs).traffic = s.traffic ∧ (handTitle s t bs).commit = s.commit ∧
    (handTitle s t bs).offers = s.offers ∧ (handTitle s t bs).seats = s.seats ∧
    (handTitle s t bs).journal = s.journal ∧ (handTitle s t bs).holds = s.holds ∧ (handTitle s t bs).clock = s.clock ∧
    (handTitle s t bs).due = s.due ∧ (handTitle s t bs).notices = s.notices ∧ (handTitle s t bs).scan = s.scan ∧
    (handTitle s t bs).trailers = s.trailers ∧ (handTitle s t bs).reports = s.reports ∧
    (handTitle s t bs).memOut = s.memOut ∧ (handTitle s t bs).ctlOut = s.ctlOut ∧ (handTitle s t bs).free = s.free ∧
    (handTitle s t bs).pending = s.pending := by
  simp [handTitle]

@[simp] theorem storeLines_keeps (s : State) (p : PanelIx) (xs : List LineIx) :
    (xs.foldl (fun t l => storeLine t p l) s).resetN = s.resetN ∧
    (xs.foldl (fun t l => storeLine t p l) s).lrstN = s.lrstN ∧
    (xs.foldl (fun t l => storeLine t p l) s).part = s.part ∧
    (xs.foldl (fun t l => storeLine t p l) s).decoder = s.decoder ∧
    (xs.foldl (fun t l => storeLine t p l) s).setup = s.setup ∧
    (xs.foldl (fun t l => storeLine t p l) s).start = s.start ∧
    (xs.foldl (fun t l => storeLine t p l) s).traffic = s.traffic ∧
    (xs.foldl (fun t l => storeLine t p l) s).commit = s.commit ∧
    (xs.foldl (fun t l => storeLine t p l) s).offers = s.offers ∧
    (xs.foldl (fun t l => storeLine t p l) s).seats = s.seats ∧
    (xs.foldl (fun t l => storeLine t p l) s).journal = s.journal ∧
    (xs.foldl (fun t l => storeLine t p l) s).holds = s.holds ∧
    (xs.foldl (fun t l => storeLine t p l) s).clock = s.clock ∧
    (xs.foldl (fun t l => storeLine t p l) s).due = s.due ∧
    (xs.foldl (fun t l => storeLine t p l) s).painter = s.painter ∧
    (xs.foldl (fun t l => storeLine t p l) s).notices = s.notices ∧
    (xs.foldl (fun t l => storeLine t p l) s).scan = s.scan ∧
    (xs.foldl (fun t l => storeLine t p l) s).trailers = s.trailers ∧
    (xs.foldl (fun t l => storeLine t p l) s).reports = s.reports ∧
    (xs.foldl (fun t l => storeLine t p l) s).memOut = s.memOut ∧
    (xs.foldl (fun t l => storeLine t p l) s).ctlOut = s.ctlOut ∧
    (xs.foldl (fun t l => storeLine t p l) s).free = s.free ∧
    (xs.foldl (fun t l => storeLine t p l) s).pending = s.pending := by
  exact ⟨foldl_keeps State.resetN _ (by intros; simp) _ _, foldl_keeps State.lrstN _ (by intros; simp) _ _,
    foldl_keeps State.part _ (by intros; simp) _ _, foldl_keeps State.decoder _ (by intros; simp) _ _,
    foldl_keeps State.setup _ (by intros; simp) _ _, foldl_keeps State.start _ (by intros; simp) _ _,
    foldl_keeps State.traffic _ (by intros; simp) _ _, foldl_keeps State.commit _ (by intros; simp) _ _,
    foldl_keeps State.offers _ (by intros; simp) _ _, foldl_keeps State.seats _ (by intros; simp) _ _,
    foldl_keeps State.journal _ (by intros; simp) _ _, foldl_keeps State.holds _ (by intros; simp) _ _,
    foldl_keeps State.clock _ (by intros; simp) _ _, foldl_keeps State.due _ (by intros; simp) _ _,
    foldl_keeps State.painter _ (by intros; simp) _ _, foldl_keeps State.notices _ (by intros; simp) _ _,
    foldl_keeps State.scan _ (by intros; simp) _ _, foldl_keeps State.trailers _ (by intros; simp) _ _,
    foldl_keeps State.reports _ (by intros; simp) _ _, foldl_keeps State.memOut _ (by intros; simp) _ _,
    foldl_keeps State.ctlOut _ (by intros; simp) _ _, foldl_keeps State.free _ (by intros; simp) _ _,
    foldl_keeps State.pending _ (by intros; simp) _ _⟩

@[simp] theorem installLayout_keeps (s : State) (p : PanelIx) (ly : Layout) :
    (installLayout s p ly).resetN = s.resetN ∧ (installLayout s p ly).lrstN = s.lrstN ∧
    (installLayout s p ly).part = s.part ∧ (installLayout s p ly).decoder = s.decoder ∧
    (installLayout s p ly).setup = s.setup ∧ (installLayout s p ly).start = s.start ∧
    (installLayout s p ly).traffic = s.traffic ∧ (installLayout s p ly).commit = s.commit ∧
    (installLayout s p ly).offers = s.offers ∧ (installLayout s p ly).seats = s.seats ∧
    (installLayout s p ly).journal = s.journal ∧ (installLayout s p ly).holds = s.holds ∧
    (installLayout s p ly).clock = s.clock ∧ (installLayout s p ly).due = s.due ∧
    (installLayout s p ly).notices = s.notices ∧ (installLayout s p ly).scan = s.scan ∧
    (installLayout s p ly).trailers = s.trailers ∧ (installLayout s p ly).reports = s.reports ∧
    (installLayout s p ly).memOut = s.memOut ∧ (installLayout s p ly).ctlOut = s.ctlOut ∧
    (installLayout s p ly).free = s.free ∧ (installLayout s p ly).pending = s.pending := by
  simp [installLayout]

@[simp] theorem acceptLayout_keeps (s : State) (p : PanelIx) (ly : Layout) :
    (acceptLayout s p ly).resetN = s.resetN ∧ (acceptLayout s p ly).lrstN = s.lrstN ∧
    (acceptLayout s p ly).part = s.part ∧ (acceptLayout s p ly).decoder = s.decoder ∧
    (acceptLayout s p ly).setup = s.setup ∧ (acceptLayout s p ly).start = s.start ∧
    (acceptLayout s p ly).traffic = s.traffic ∧ (acceptLayout s p ly).commit = s.commit ∧
    (acceptLayout s p ly).offers = s.offers ∧ (acceptLayout s p ly).seats = s.seats ∧
    (acceptLayout s p ly).journal = s.journal ∧ (acceptLayout s p ly).holds = s.holds ∧
    (acceptLayout s p ly).clock = s.clock ∧ (acceptLayout s p ly).due = s.due ∧
    (acceptLayout s p ly).notices = s.notices ∧ (acceptLayout s p ly).scan = s.scan ∧
    (acceptLayout s p ly).trailers = s.trailers ∧ (acceptLayout s p ly).reports = s.reports ∧
    (acceptLayout s p ly).memOut = s.memOut ∧ (acceptLayout s p ly).ctlOut = s.ctlOut ∧
    (acceptLayout s p ly).free = s.free ∧ (acceptLayout s p ly).pending = s.pending := by
  unfold acceptLayout
  dsimp only
  (repeat' split) <;> simp

@[simp] theorem refuseLayout_keeps (s : State) (p : PanelIx) (k : Nat) (l : Option Nat) :
    (refuseLayout s p k l).resetN = s.resetN ∧ (refuseLayout s p k l).lrstN = s.lrstN ∧
    (refuseLayout s p k l).part = s.part ∧ (refuseLayout s p k l).decoder = s.decoder ∧
    (refuseLayout s p k l).setup = s.setup ∧ (refuseLayout s p k l).start = s.start ∧
    (refuseLayout s p k l).traffic = s.traffic ∧ (refuseLayout s p k l).commit = s.commit ∧
    (refuseLayout s p k l).offers = s.offers ∧ (refuseLayout s p k l).seats = s.seats ∧
    (refuseLayout s p k l).journal = s.journal ∧ (refuseLayout s p k l).holds = s.holds ∧
    (refuseLayout s p k l).clock = s.clock ∧ (refuseLayout s p k l).due = s.due ∧
    (refuseLayout s p k l).roster = s.roster ∧ (refuseLayout s p k l).painter = s.painter ∧
    (refuseLayout s p k l).notices = s.notices ∧ (refuseLayout s p k l).scan = s.scan ∧
    (refuseLayout s p k l).trailers = s.trailers ∧ (refuseLayout s p k l).memOut = s.memOut ∧
    (refuseLayout s p k l).ctlOut = s.ctlOut ∧ (refuseLayout s p k l).pending = s.pending := by
  unfold refuseLayout
  (repeat' split) <;> simp

@[simp] theorem handLayout_keeps (s : State) (p : PanelIx) (bs : List Byte) :
    (handLayout s p bs).resetN = s.resetN ∧ (handLayout s p bs).lrstN = s.lrstN ∧ (handLayout s p bs).part = s.part ∧
    (handLayout s p bs).decoder = s.decoder ∧ (handLayout s p bs).setup = s.setup ∧
    (handLayout s p bs).start = s.start ∧ (handLayout s p bs).traffic = s.traffic ∧
    (handLayout s p bs).commit = s.commit ∧ (handLayout s p bs).offers = s.offers ∧
    (handLayout s p bs).seats = s.seats ∧ (handLayout s p bs).journal = s.journal ∧
    (handLayout s p bs).holds = s.holds ∧ (handLayout s p bs).clock = s.clock ∧ (handLayout s p bs).due = s.due ∧
    (handLayout s p bs).notices = s.notices ∧ (handLayout s p bs).scan = s.scan ∧
    (handLayout s p bs).trailers = s.trailers ∧ (handLayout s p bs).memOut = s.memOut ∧
    (handLayout s p bs).ctlOut = s.ctlOut ∧ (handLayout s p bs).pending = s.pending := by
  unfold handLayout
  (repeat' split) <;> simp

@[simp] theorem buildLayout_keeps (s : State) (p : PanelIx) (bs : List Byte) :
    (buildLayout s p bs).resetN = s.resetN ∧ (buildLayout s p bs).lrstN = s.lrstN ∧
    (buildLayout s p bs).part = s.part ∧ (buildLayout s p bs).decoder = s.decoder ∧
    (buildLayout s p bs).setup = s.setup ∧ (buildLayout s p bs).start = s.start ∧
    (buildLayout s p bs).traffic = s.traffic ∧ (buildLayout s p bs).commit = s.commit ∧
    (buildLayout s p bs).offers = s.offers ∧ (buildLayout s p bs).seats = s.seats ∧
    (buildLayout s p bs).journal = s.journal ∧ (buildLayout s p bs).holds = s.holds ∧
    (buildLayout s p bs).clock = s.clock ∧ (buildLayout s p bs).due = s.due ∧
    (buildLayout s p bs).notices = s.notices ∧ (buildLayout s p bs).scan = s.scan ∧
    (buildLayout s p bs).trailers = s.trailers ∧ (buildLayout s p bs).memOut = s.memOut ∧
    (buildLayout s p bs).ctlOut = s.ctlOut ∧ (buildLayout s p bs).pending = s.pending := by
  unfold buildLayout
  (repeat' split) <;> simp

@[simp] theorem leaveQueue_keeps (s : State) (r : CellRef) :
    (leaveQueue s r).resetN = s.resetN ∧ (leaveQueue s r).lrstN = s.lrstN ∧ (leaveQueue s r).part = s.part ∧
    (leaveQueue s r).decoder = s.decoder ∧ (leaveQueue s r).setup = s.setup ∧ (leaveQueue s r).start = s.start ∧
    (leaveQueue s r).traffic = s.traffic ∧ (leaveQueue s r).commit = s.commit ∧ (leaveQueue s r).offers = s.offers ∧
    (leaveQueue s r).seats = s.seats ∧ (leaveQueue s r).journal = s.journal ∧ (leaveQueue s r).holds = s.holds ∧
    (leaveQueue s r).clock = s.clock ∧ (leaveQueue s r).due = s.due ∧ (leaveQueue s r).roster = s.roster ∧
    (leaveQueue s r).notices = s.notices ∧ (leaveQueue s r).scan = s.scan ∧ (leaveQueue s r).trailers = s.trailers ∧
    (leaveQueue s r).reports = s.reports ∧ (leaveQueue s r).memOut = s.memOut ∧ (leaveQueue s r).ctlOut = s.ctlOut ∧
    (leaveQueue s r).free = s.free ∧ (leaveQueue s r).pending = s.pending := by
  simp [leaveQueue]

@[simp] theorem startPaint_keeps (s : State) (r : CellRef) :
    (startPaint s r).resetN = s.resetN ∧ (startPaint s r).lrstN = s.lrstN ∧ (startPaint s r).part = s.part ∧
    (startPaint s r).decoder = s.decoder ∧ (startPaint s r).setup = s.setup ∧ (startPaint s r).start = s.start ∧
    (startPaint s r).traffic = s.traffic ∧ (startPaint s r).commit = s.commit ∧ (startPaint s r).offers = s.offers ∧
    (startPaint s r).seats = s.seats ∧ (startPaint s r).journal = s.journal ∧ (startPaint s r).holds = s.holds ∧
    (startPaint s r).clock = s.clock ∧ (startPaint s r).due = s.due ∧ (startPaint s r).roster = s.roster ∧
    (startPaint s r).notices = s.notices ∧ (startPaint s r).scan = s.scan ∧ (startPaint s r).trailers = s.trailers ∧
    (startPaint s r).reports = s.reports ∧ (startPaint s r).memOut = s.memOut ∧ (startPaint s r).ctlOut = s.ctlOut ∧
    (startPaint s r).free = s.free ∧ (startPaint s r).pending = s.pending := by
  simp [startPaint]

@[simp] theorem takeCell_keeps (s : State) (r : CellRef) :
    (takeCell s r).resetN = s.resetN ∧ (takeCell s r).lrstN = s.lrstN ∧ (takeCell s r).part = s.part ∧
    (takeCell s r).decoder = s.decoder ∧ (takeCell s r).setup = s.setup ∧ (takeCell s r).start = s.start ∧
    (takeCell s r).traffic = s.traffic ∧ (takeCell s r).commit = s.commit ∧ (takeCell s r).offers = s.offers ∧
    (takeCell s r).seats = s.seats ∧ (takeCell s r).journal = s.journal ∧ (takeCell s r).holds = s.holds ∧
    (takeCell s r).clock = s.clock ∧ (takeCell s r).due = s.due ∧ (takeCell s r).roster = s.roster ∧
    (takeCell s r).notices = s.notices ∧ (takeCell s r).scan = s.scan ∧ (takeCell s r).trailers = s.trailers ∧
    (takeCell s r).reports = s.reports ∧ (takeCell s r).memOut = s.memOut ∧ (takeCell s r).ctlOut = s.ctlOut ∧
    (takeCell s r).free = s.free ∧ (takeCell s r).pending = s.pending := by
  unfold takeCell
  dsimp only
  (repeat' split) <;> simp

@[simp] theorem clearPainting_keeps (s : State) (r : CellRef) (c : Option Target) :
    (clearPainting s r c).resetN = s.resetN ∧ (clearPainting s r c).lrstN = s.lrstN ∧
    (clearPainting s r c).part = s.part ∧ (clearPainting s r c).decoder = s.decoder ∧
    (clearPainting s r c).setup = s.setup ∧ (clearPainting s r c).start = s.start ∧
    (clearPainting s r c).traffic = s.traffic ∧ (clearPainting s r c).commit = s.commit ∧
    (clearPainting s r c).offers = s.offers ∧ (clearPainting s r c).seats = s.seats ∧
    (clearPainting s r c).journal = s.journal ∧ (clearPainting s r c).holds = s.holds ∧
    (clearPainting s r c).clock = s.clock ∧ (clearPainting s r c).due = s.due ∧
    (clearPainting s r c).roster = s.roster ∧ (clearPainting s r c).notices = s.notices ∧
    (clearPainting s r c).scan = s.scan ∧ (clearPainting s r c).trailers = s.trailers ∧
    (clearPainting s r c).reports = s.reports ∧ (clearPainting s r c).memOut = s.memOut ∧
    (clearPainting s r c).ctlOut = s.ctlOut ∧ (clearPainting s r c).free = s.free ∧
    (clearPainting s r c).pending = s.pending := by
  simp [clearPainting]

@[simp] theorem giveUpPaint_keeps (s : State) (r : CellRef) :
    (giveUpPaint s r).resetN = s.resetN ∧ (giveUpPaint s r).lrstN = s.lrstN ∧ (giveUpPaint s r).part = s.part ∧
    (giveUpPaint s r).decoder = s.decoder ∧ (giveUpPaint s r).setup = s.setup ∧ (giveUpPaint s r).start = s.start ∧
    (giveUpPaint s r).traffic = s.traffic ∧ (giveUpPaint s r).commit = s.commit ∧
    (giveUpPaint s r).offers = s.offers ∧ (giveUpPaint s r).seats = s.seats ∧ (giveUpPaint s r).journal = s.journal ∧
    (giveUpPaint s r).holds = s.holds ∧ (giveUpPaint s r).clock = s.clock ∧ (giveUpPaint s r).due = s.due ∧
    (giveUpPaint s r).roster = s.roster ∧ (giveUpPaint s r).notices = s.notices ∧ (giveUpPaint s r).scan = s.scan ∧
    (giveUpPaint s r).trailers = s.trailers ∧ (giveUpPaint s r).reports = s.reports ∧
    (giveUpPaint s r).memOut = s.memOut ∧ (giveUpPaint s r).ctlOut = s.ctlOut ∧ (giveUpPaint s r).free = s.free ∧
    (giveUpPaint s r).pending = s.pending := by
  simp [giveUpPaint]

@[simp] theorem freeSlots_keeps (s : State) :
    (freeSlots s).resetN = s.resetN ∧ (freeSlots s).lrstN = s.lrstN ∧ (freeSlots s).part = s.part ∧
    (freeSlots s).decoder = s.decoder ∧ (freeSlots s).setup = s.setup ∧ (freeSlots s).start = s.start ∧
    (freeSlots s).traffic = s.traffic ∧ (freeSlots s).commit = s.commit ∧ (freeSlots s).offers = s.offers ∧
    (freeSlots s).seats = s.seats ∧ (freeSlots s).journal = s.journal ∧ (freeSlots s).holds = s.holds ∧
    (freeSlots s).clock = s.clock ∧ (freeSlots s).due = s.due ∧ (freeSlots s).roster = s.roster ∧
    (freeSlots s).notices = s.notices ∧ (freeSlots s).scan = s.scan ∧ (freeSlots s).trailers = s.trailers ∧
    (freeSlots s).reports = s.reports ∧ (freeSlots s).memOut = s.memOut ∧ (freeSlots s).ctlOut = s.ctlOut ∧
    (freeSlots s).free = s.free ∧ (freeSlots s).pending = s.pending := by
  have h : ∀ {γ : Type} (g : State → γ), (∀ s r, g (giveUpPaint s r) = g s) →
      g { s with painter := { s.painter with slots := [] } } = g s → g (freeSlots s) = g s :=
    fun g h1 h2 => (foldl_keeps g (fun t (p : Paint) => giveUpPaint t p.ref) (fun s p => h1 s p.ref) _ _).trans h2
  exact ⟨h State.resetN (by simp) rfl, h State.lrstN (by simp) rfl, h State.part (by simp) rfl, h State.decoder
    (by simp) rfl, h State.setup (by simp) rfl, h State.start (by simp) rfl, h State.traffic (by simp) rfl, h
    State.commit (by simp) rfl, h State.offers (by simp) rfl, h State.seats (by simp) rfl, h State.journal (by
    simp) rfl, h State.holds (by simp) rfl, h State.clock (by simp) rfl, h State.due (by simp) rfl, h State.roster
    (by simp) rfl, h State.notices (by simp) rfl, h State.scan (by simp) rfl, h State.trailers (by simp) rfl, h
    State.reports (by simp) rfl, h State.memOut (by simp) rfl, h State.ctlOut (by simp) rfl, h State.free (by
    simp) rfl, h State.pending (by simp) rfl⟩

@[simp] theorem offer_slots (s : State) (r : CellRef) (b : Bool) : (offer s r b).painter.slots = s.painter.slots := by
  unfold offer enqueueCell
  dsimp only
  (repeat' split) <;> rfl

@[simp] theorem giveUpPaint_slots (s : State) (r : CellRef) :
    (giveUpPaint s r).painter.slots = s.painter.slots := (offer_slots _ _ _).trans rfl

/-- No slot is left in use (R109). -/
@[simp] theorem freeSlots_slots (s : State) : (freeSlots s).painter.slots = [] := by
  have h : ∀ (l : List Paint) (t : State), t.painter.slots = [] →
      (l.foldl (fun t p => giveUpPaint t p.ref) t).painter.slots = [] := by
    intro l
    induction l with
    | nil => exact fun t h => h
    | cons p l ih => exact fun t h => ih _ ((giveUpPaint_slots t p.ref).trans h)
  unfold freeSlots
  exact h _ _ rfl

/-- What giving up a paint does to its place (R106, R107): no painting or spoiled mark, content UNKNOWN, and the faulted
mark as it was. -/
theorem giveUpPaint_place (s : State) (r : CellRef) :
    cellMarks (giveUpPaint s r) r = { cellMarks s r with
      painted := none, painting := false, spoiled := false, queued := (cellMarks (giveUpPaint s r) r).queued } := by
  unfold giveUpPaint offer enqueueCell
  dsimp only
  (repeat' split) <;> (first | contradiction | simp [clearPainting, cellMarks, setMarks, setRedraw])

@[simp] theorem beginReload_keeps (s : State) :
    (beginReload s).resetN = s.resetN ∧ (beginReload s).lrstN = s.lrstN ∧ (beginReload s).part = s.part ∧
    (beginReload s).decoder = s.decoder ∧ (beginReload s).setup = s.setup ∧ (beginReload s).traffic = s.traffic ∧
    (beginReload s).commit = s.commit ∧ (beginReload s).offers = s.offers ∧ (beginReload s).seats = s.seats ∧
    (beginReload s).journal = s.journal ∧ (beginReload s).holds = s.holds ∧ (beginReload s).clock = s.clock ∧
    (beginReload s).due = s.due ∧ (beginReload s).roster = s.roster ∧ (beginReload s).notices = s.notices ∧
    (beginReload s).scan = s.scan ∧ (beginReload s).trailers = s.trailers ∧ (beginReload s).reports = s.reports ∧
    (beginReload s).memOut = s.memOut ∧ (beginReload s).ctlOut = s.ctlOut ∧ (beginReload s).free = s.free ∧
    (beginReload s).pending = s.pending := by
  simp [beginReload]

@[simp] theorem faultPaint_keeps (s : State) (p : Paint) (f : PaintFault) :
    (faultPaint s p f).resetN = s.resetN ∧ (faultPaint s p f).lrstN = s.lrstN ∧ (faultPaint s p f).part = s.part ∧
    (faultPaint s p f).decoder = s.decoder ∧ (faultPaint s p f).setup = s.setup ∧ (faultPaint s p f).start = s.start ∧
    (faultPaint s p f).traffic = s.traffic ∧ (faultPaint s p f).commit = s.commit ∧
    (faultPaint s p f).offers = s.offers ∧ (faultPaint s p f).seats = s.seats ∧
    (faultPaint s p f).journal = s.journal ∧ (faultPaint s p f).holds = s.holds ∧ (faultPaint s p f).clock = s.clock ∧
    (faultPaint s p f).due = s.due ∧ (faultPaint s p f).roster = s.roster ∧ (faultPaint s p f).notices = s.notices ∧
    (faultPaint s p f).scan = s.scan ∧ (faultPaint s p f).trailers = s.trailers ∧
    (faultPaint s p f).memOut = s.memOut ∧ (faultPaint s p f).ctlOut = s.ctlOut ∧ (faultPaint s p f).free = s.free ∧
    (faultPaint s p f).pending = s.pending := by
  simp [faultPaint]

@[simp] theorem endPaint_keeps (s : State) (p : Paint) :
    (endPaint s p).resetN = s.resetN ∧ (endPaint s p).lrstN = s.lrstN ∧ (endPaint s p).part = s.part ∧
    (endPaint s p).decoder = s.decoder ∧ (endPaint s p).setup = s.setup ∧ (endPaint s p).start = s.start ∧
    (endPaint s p).traffic = s.traffic ∧ (endPaint s p).commit = s.commit ∧ (endPaint s p).offers = s.offers ∧
    (endPaint s p).seats = s.seats ∧ (endPaint s p).journal = s.journal ∧ (endPaint s p).holds = s.holds ∧
    (endPaint s p).clock = s.clock ∧ (endPaint s p).due = s.due ∧ (endPaint s p).roster = s.roster ∧
    (endPaint s p).notices = s.notices ∧ (endPaint s p).scan = s.scan ∧ (endPaint s p).trailers = s.trailers ∧
    (endPaint s p).memOut = s.memOut ∧ (endPaint s p).ctlOut = s.ctlOut ∧ (endPaint s p).free = s.free ∧
    (endPaint s p).pending = s.pending := by
  unfold endPaint
  (repeat' split) <;> simp

end Sys2Proof.Machine
end

