-- ==== Sys2Proof/Laws/Notices.lean ====
section
/-! SUPPORT. Notices, the glyph cache, the scan-out path and the trailer streams. What each operation leaves unchanged, field by field; `simp` uses every one of these facts. -/

namespace Sys2Proof.Machine

@[simp] theorem waitBanner_keeps (s : State) (n : NoticeIx) :
    (waitBanner s n).resetN = s.resetN ∧ (waitBanner s n).lrstN = s.lrstN ∧ (waitBanner s n).part = s.part ∧
    (waitBanner s n).decoder = s.decoder ∧ (waitBanner s n).setup = s.setup ∧ (waitBanner s n).start = s.start ∧
    (waitBanner s n).traffic = s.traffic ∧ (waitBanner s n).commit = s.commit ∧ (waitBanner s n).offers = s.offers ∧
    (waitBanner s n).seats = s.seats ∧ (waitBanner s n).journal = s.journal ∧ (waitBanner s n).holds = s.holds ∧
    (waitBanner s n).clock = s.clock ∧ (waitBanner s n).due = s.due ∧ (waitBanner s n).roster = s.roster ∧
    (waitBanner s n).painter = s.painter ∧ (waitBanner s n).scan = s.scan ∧ (waitBanner s n).trailers = s.trailers ∧
    (waitBanner s n).memOut = s.memOut ∧ (waitBanner s n).ctlOut = s.ctlOut ∧ (waitBanner s n).free = s.free ∧
    (waitBanner s n).pending = s.pending := by
  simp [waitBanner]

@[simp] theorem tryBanner_keeps (s : State) (n : NoticeIx) :
    (tryBanner s n).resetN = s.resetN ∧ (tryBanner s n).lrstN = s.lrstN ∧ (tryBanner s n).part = s.part ∧
    (tryBanner s n).decoder = s.decoder ∧ (tryBanner s n).setup = s.setup ∧ (tryBanner s n).start = s.start ∧
    (tryBanner s n).traffic = s.traffic ∧ (tryBanner s n).commit = s.commit ∧ (tryBanner s n).offers = s.offers ∧
    (tryBanner s n).seats = s.seats ∧ (tryBanner s n).journal = s.journal ∧ (tryBanner s n).holds = s.holds ∧
    (tryBanner s n).clock = s.clock ∧ (tryBanner s n).due = s.due ∧ (tryBanner s n).roster = s.roster ∧
    (tryBanner s n).painter = s.painter ∧ (tryBanner s n).scan = s.scan ∧ (tryBanner s n).trailers = s.trailers ∧
    (tryBanner s n).memOut = s.memOut ∧ (tryBanner s n).ctlOut = s.ctlOut ∧ (tryBanner s n).free = s.free ∧
    (tryBanner s n).pending = s.pending := by
  unfold tryBanner
  (repeat' split) <;> simp

@[simp] theorem setExpiry_keeps (s : State) (n : NoticeIx) (k : Nat) :
    (setExpiry s n k).resetN = s.resetN ∧ (setExpiry s n k).lrstN = s.lrstN ∧ (setExpiry s n k).part = s.part ∧
    (setExpiry s n k).decoder = s.decoder ∧ (setExpiry s n k).setup = s.setup ∧ (setExpiry s n k).start = s.start ∧
    (setExpiry s n k).traffic = s.traffic ∧ (setExpiry s n k).commit = s.commit ∧
    (setExpiry s n k).offers = s.offers ∧ (setExpiry s n k).seats = s.seats ∧ (setExpiry s n k).journal = s.journal ∧
    (setExpiry s n k).holds = s.holds ∧ (setExpiry s n k).clock = s.clock ∧ (setExpiry s n k).roster = s.roster ∧
    (setExpiry s n k).painter = s.painter ∧ (setExpiry s n k).notices = s.notices ∧ (setExpiry s n k).scan = s.scan ∧
    (setExpiry s n k).trailers = s.trailers ∧ (setExpiry s n k).reports = s.reports ∧
    (setExpiry s n k).memOut = s.memOut ∧ (setExpiry s n k).ctlOut = s.ctlOut ∧ (setExpiry s n k).free = s.free ∧
    (setExpiry s n k).pending = s.pending := by
  unfold setExpiry
  (repeat' split) <;> simp

@[simp] theorem postNotice_keeps (s : State) (n : NoticeIx) (f : NoticeFields) :
    (postNotice s n f).resetN = s.resetN ∧ (postNotice s n f).lrstN = s.lrstN ∧ (postNotice s n f).part = s.part ∧
    (postNotice s n f).decoder = s.decoder ∧ (postNotice s n f).setup = s.setup ∧ (postNotice s n f).start = s.start ∧
    (postNotice s n f).traffic = s.traffic ∧ (postNotice s n f).commit = s.commit ∧
    (postNotice s n f).offers = s.offers ∧ (postNotice s n f).seats = s.seats ∧
    (postNotice s n f).journal = s.journal ∧ (postNotice s n f).holds = s.holds ∧ (postNotice s n f).clock = s.clock ∧
    (postNotice s n f).scan = s.scan ∧ (postNotice s n f).trailers = s.trailers ∧
    (postNotice s n f).memOut = s.memOut ∧ (postNotice s n f).ctlOut = s.ctlOut ∧ (postNotice s n f).free = s.free ∧
    (postNotice s n f).pending = s.pending := by
  unfold postNotice
  dsimp only
  (repeat' split) <;> simp

@[simp] theorem endNotice_keeps (s : State) (n : NoticeIx) :
    (endNotice s n).resetN = s.resetN ∧ (endNotice s n).lrstN = s.lrstN ∧ (endNotice s n).part = s.part ∧
    (endNotice s n).decoder = s.decoder ∧ (endNotice s n).setup = s.setup ∧ (endNotice s n).start = s.start ∧
    (endNotice s n).traffic = s.traffic ∧ (endNotice s n).commit = s.commit ∧ (endNotice s n).offers = s.offers ∧
    (endNotice s n).seats = s.seats ∧ (endNotice s n).journal = s.journal ∧ (endNotice s n).holds = s.holds ∧
    (endNotice s n).clock = s.clock ∧ (endNotice s n).due = s.due ∧ (endNotice s n).scan = s.scan ∧
    (endNotice s n).trailers = s.trailers ∧ (endNotice s n).reports = s.reports ∧ (endNotice s n).memOut = s.memOut ∧
    (endNotice s n).ctlOut = s.ctlOut ∧ (endNotice s n).free = s.free ∧ (endNotice s n).pending = s.pending := by
  unfold endNotice
  dsimp only
  (repeat' split) <;> simp

@[simp] theorem withdrawNotice_keeps (s : State) (n : NoticeIx) :
    (withdrawNotice s n).resetN = s.resetN ∧ (withdrawNotice s n).lrstN = s.lrstN ∧
    (withdrawNotice s n).part = s.part ∧ (withdrawNotice s n).decoder = s.decoder ∧
    (withdrawNotice s n).setup = s.setup ∧ (withdrawNotice s n).start = s.start ∧
    (withdrawNotice s n).traffic = s.traffic ∧ (withdrawNotice s n).commit = s.commit ∧
    (withdrawNotice s n).offers = s.offers ∧ (withdrawNotice s n).seats = s.seats ∧
    (withdrawNotice s n).journal = s.journal ∧ (withdrawNotice s n).holds = s.holds ∧
    (withdrawNotice s n).clock = s.clock ∧ (withdrawNotice s n).scan = s.scan ∧
    (withdrawNotice s n).trailers = s.trailers ∧ (withdrawNotice s n).reports = s.reports ∧
    (withdrawNotice s n).memOut = s.memOut ∧ (withdrawNotice s n).ctlOut = s.ctlOut ∧
    (withdrawNotice s n).free = s.free ∧ (withdrawNotice s n).pending = s.pending := by
  unfold withdrawNotice
  (repeat' split) <;> simp

@[simp] theorem expireNotice_keeps (s : State) (n : NoticeIx) :
    (expireNotice s n).resetN = s.resetN ∧ (expireNotice s n).lrstN = s.lrstN ∧ (expireNotice s n).part = s.part ∧
    (expireNotice s n).decoder = s.decoder ∧ (expireNotice s n).setup = s.setup ∧ (expireNotice s n).start = s.start ∧
    (expireNotice s n).traffic = s.traffic ∧ (expireNotice s n).commit = s.commit ∧
    (expireNotice s n).offers = s.offers ∧ (expireNotice s n).seats = s.seats ∧
    (expireNotice s n).journal = s.journal ∧ (expireNotice s n).holds = s.holds ∧ (expireNotice s n).clock = s.clock ∧
    (expireNotice s n).due = s.due ∧ (expireNotice s n).scan = s.scan ∧ (expireNotice s n).trailers = s.trailers ∧
    (expireNotice s n).memOut = s.memOut ∧ (expireNotice s n).ctlOut = s.ctlOut ∧ (expireNotice s n).free = s.free ∧
    (expireNotice s n).pending = s.pending := by
  unfold expireNotice
  dsimp only
  (repeat' split) <;> simp

@[simp] theorem handNotice_keeps (s : State) (n : NoticeIx) (bs : List Byte) :
    (handNotice s n bs).resetN = s.resetN ∧ (handNotice s n bs).lrstN = s.lrstN ∧ (handNotice s n bs).part = s.part ∧
    (handNotice s n bs).decoder = s.decoder ∧ (handNotice s n bs).setup = s.setup ∧
    (handNotice s n bs).start = s.start ∧ (handNotice s n bs).traffic = s.traffic ∧
    (handNotice s n bs).commit = s.commit ∧ (handNotice s n bs).offers = s.offers ∧
    (handNotice s n bs).seats = s.seats ∧ (handNotice s n bs).journal = s.journal ∧
    (handNotice s n bs).holds = s.holds ∧ (handNotice s n bs).clock = s.clock ∧ (handNotice s n bs).scan = s.scan ∧
    (handNotice s n bs).trailers = s.trailers ∧ (handNotice s n bs).memOut = s.memOut ∧
    (handNotice s n bs).ctlOut = s.ctlOut ∧ (handNotice s n bs).free = s.free ∧
    (handNotice s n bs).pending = s.pending := by
  unfold handNotice
  dsimp only
  (repeat' split) <;> simp

@[simp] theorem fillEntry_keeps (s : State) (e : CacheIx) (x : ReadResult) :
    (fillEntry s e x).resetN = s.resetN ∧ (fillEntry s e x).lrstN = s.lrstN ∧ (fillEntry s e x).part = s.part ∧
    (fillEntry s e x).decoder = s.decoder ∧ (fillEntry s e x).setup = s.setup ∧ (fillEntry s e x).start = s.start ∧
    (fillEntry s e x).traffic = s.traffic ∧ (fillEntry s e x).commit = s.commit ∧
    (fillEntry s e x).offers = s.offers ∧ (fillEntry s e x).seats = s.seats ∧ (fillEntry s e x).journal = s.journal ∧
    (fillEntry s e x).holds = s.holds ∧ (fillEntry s e x).clock = s.clock ∧ (fillEntry s e x).due = s.due ∧
    (fillEntry s e x).roster = s.roster ∧ (fillEntry s e x).painter = s.painter ∧ (fillEntry s e x).scan = s.scan ∧
    (fillEntry s e x).trailers = s.trailers ∧ (fillEntry s e x).memOut = s.memOut ∧
    (fillEntry s e x).ctlOut = s.ctlOut ∧ (fillEntry s e x).free = s.free ∧ (fillEntry s e x).pending = s.pending := by
  unfold fillEntry
  dsimp only
  (repeat' split) <;> simp

@[simp] theorem buildNotice_keeps (s : State) (n : NoticeIx) (bs : List Byte) :
    (buildNotice s n bs).resetN = s.resetN ∧ (buildNotice s n bs).lrstN = s.lrstN ∧
    (buildNotice s n bs).part = s.part ∧ (buildNotice s n bs).decoder = s.decoder ∧
    (buildNotice s n bs).setup = s.setup ∧ (buildNotice s n bs).traffic = s.traffic ∧
    (buildNotice s n bs).commit = s.commit ∧ (buildNotice s n bs).offers = s.offers ∧
    (buildNotice s n bs).seats = s.seats ∧ (buildNotice s n bs).journal = s.journal ∧
    (buildNotice s n bs).holds = s.holds ∧ (buildNotice s n bs).clock = s.clock ∧
    (buildNotice s n bs).roster = s.roster ∧ (buildNotice s n bs).painter = s.painter ∧
    (buildNotice s n bs).scan = s.scan ∧ (buildNotice s n bs).trailers = s.trailers ∧
    (buildNotice s n bs).memOut = s.memOut ∧ (buildNotice s n bs).ctlOut = s.ctlOut ∧
    (buildNotice s n bs).free = s.free ∧ (buildNotice s n bs).pending = s.pending := by
  unfold buildNotice
  dsimp only
  (repeat' split) <;> simp

@[simp] theorem activateLines_keeps (s : State) (xs : List NoticeIx) :
    (xs.foldl activateLine s).resetN = s.resetN ∧ (xs.foldl activateLine s).lrstN = s.lrstN ∧
    (xs.foldl activateLine s).part = s.part ∧ (xs.foldl activateLine s).decoder = s.decoder ∧
    (xs.foldl activateLine s).setup = s.setup ∧ (xs.foldl activateLine s).start = s.start ∧
    (xs.foldl activateLine s).traffic = s.traffic ∧ (xs.foldl activateLine s).commit = s.commit ∧
    (xs.foldl activateLine s).offers = s.offers ∧ (xs.foldl activateLine s).seats = s.seats ∧
    (xs.foldl activateLine s).journal = s.journal ∧ (xs.foldl activateLine s).holds = s.holds ∧
    (xs.foldl activateLine s).clock = s.clock ∧ (xs.foldl activateLine s).due = s.due ∧
    (xs.foldl activateLine s).roster = s.roster ∧ (xs.foldl activateLine s).painter = s.painter ∧
    (xs.foldl activateLine s).scan = s.scan ∧ (xs.foldl activateLine s).trailers = s.trailers ∧
    (xs.foldl activateLine s).reports = s.reports ∧ (xs.foldl activateLine s).memOut = s.memOut ∧
    (xs.foldl activateLine s).ctlOut = s.ctlOut ∧ (xs.foldl activateLine s).free = s.free ∧
    (xs.foldl activateLine s).pending = s.pending := by
  exact ⟨foldl_keeps State.resetN _ (by intros; simp) _ _, foldl_keeps State.lrstN _ (by intros; simp) _ _,
    foldl_keeps State.part _ (by intros; simp) _ _, foldl_keeps State.decoder _ (by intros; simp) _ _,
    foldl_keeps State.setup _ (by intros; simp) _ _, foldl_keeps State.start _ (by intros; simp) _ _,
    foldl_keeps State.traffic _ (by intros; simp) _ _, foldl_keeps State.commit _ (by intros; simp) _ _,
    foldl_keeps State.offers _ (by intros; simp) _ _, foldl_keeps State.seats _ (by intros; simp) _ _,
    foldl_keeps State.journal _ (by intros; simp) _ _, foldl_keeps State.holds _ (by intros; simp) _ _,
    foldl_keeps State.clock _ (by intros; simp) _ _, foldl_keeps State.due _ (by intros; simp) _ _,
    foldl_keeps State.roster _ (by intros; simp) _ _, foldl_keeps State.painter _ (by intros; simp) _ _,
    foldl_keeps State.scan _ (by intros; simp) _ _, foldl_keeps State.trailers _ (by intros; simp) _ _,
    foldl_keeps State.reports _ (by intros; simp) _ _, foldl_keeps State.memOut _ (by intros; simp) _ _,
    foldl_keeps State.ctlOut _ (by intros; simp) _ _, foldl_keeps State.free _ (by intros; simp) _ _,
    foldl_keeps State.pending _ (by intros; simp) _ _⟩

@[simp] theorem tryBanners_keeps (s : State) (xs : List NoticeIx) :
    (xs.foldl tryBanner s).resetN = s.resetN ∧ (xs.foldl tryBanner s).lrstN = s.lrstN ∧
    (xs.foldl tryBanner s).part = s.part ∧ (xs.foldl tryBanner s).decoder = s.decoder ∧
    (xs.foldl tryBanner s).setup = s.setup ∧ (xs.foldl tryBanner s).start = s.start ∧
    (xs.foldl tryBanner s).traffic = s.traffic ∧ (xs.foldl tryBanner s).commit = s.commit ∧
    (xs.foldl tryBanner s).offers = s.offers ∧ (xs.foldl tryBanner s).seats = s.seats ∧
    (xs.foldl tryBanner s).journal = s.journal ∧ (xs.foldl tryBanner s).holds = s.holds ∧
    (xs.foldl tryBanner s).clock = s.clock ∧ (xs.foldl tryBanner s).due = s.due ∧
    (xs.foldl tryBanner s).roster = s.roster ∧ (xs.foldl tryBanner s).painter = s.painter ∧
    (xs.foldl tryBanner s).scan = s.scan ∧ (xs.foldl tryBanner s).trailers = s.trailers ∧
    (xs.foldl tryBanner s).memOut = s.memOut ∧ (xs.foldl tryBanner s).ctlOut = s.ctlOut ∧
    (xs.foldl tryBanner s).free = s.free ∧ (xs.foldl tryBanner s).pending = s.pending := by
  exact ⟨foldl_keeps State.resetN _ (by intros; simp) _ _, foldl_keeps State.lrstN _ (by intros; simp) _ _,
    foldl_keeps State.part _ (by intros; simp) _ _, foldl_keeps State.decoder _ (by intros; simp) _ _,
    foldl_keeps State.setup _ (by intros; simp) _ _, foldl_keeps State.start _ (by intros; simp) _ _,
    foldl_keeps State.traffic _ (by intros; simp) _ _, foldl_keeps State.commit _ (by intros; simp) _ _,
    foldl_keeps State.offers _ (by intros; simp) _ _, foldl_keeps State.seats _ (by intros; simp) _ _,
    foldl_keeps State.journal _ (by intros; simp) _ _, foldl_keeps State.holds _ (by intros; simp) _ _,
    foldl_keeps State.clock _ (by intros; simp) _ _, foldl_keeps State.due _ (by intros; simp) _ _,
    foldl_keeps State.roster _ (by intros; simp) _ _, foldl_keeps State.painter _ (by intros; simp) _ _,
    foldl_keeps State.scan _ (by intros; simp) _ _, foldl_keeps State.trailers _ (by intros; simp) _ _,
    foldl_keeps State.memOut _ (by intros; simp) _ _, foldl_keeps State.ctlOut _ (by intros; simp) _ _,
    foldl_keeps State.free _ (by intros; simp) _ _, foldl_keeps State.pending _ (by intros; simp) _ _⟩

@[simp] theorem finishNotices_keeps (s : State) :
    (finishNotices s).resetN = s.resetN ∧ (finishNotices s).lrstN = s.lrstN ∧ (finishNotices s).part = s.part ∧
    (finishNotices s).decoder = s.decoder ∧ (finishNotices s).setup = s.setup ∧ (finishNotices s).start = s.start ∧
    (finishNotices s).traffic = s.traffic ∧ (finishNotices s).commit = s.commit ∧
    (finishNotices s).offers = s.offers ∧ (finishNotices s).seats = s.seats ∧ (finishNotices s).journal = s.journal ∧
    (finishNotices s).holds = s.holds ∧ (finishNotices s).clock = s.clock ∧ (finishNotices s).due = s.due ∧
    (finishNotices s).scan = s.scan ∧ (finishNotices s).trailers = s.trailers ∧ (finishNotices s).memOut = s.memOut ∧
    (finishNotices s).ctlOut = s.ctlOut ∧ (finishNotices s).free = s.free ∧ (finishNotices s).pending = s.pending := by
  simp [finishNotices]

@[simp] theorem changeSlots_keeps (s : State) (i : StreamIx) (v : Vector FrameSlot 4) :
    (changeSlots s i v).resetN = s.resetN ∧ (changeSlots s i v).lrstN = s.lrstN ∧ (changeSlots s i v).part = s.part ∧
    (changeSlots s i v).decoder = s.decoder ∧ (changeSlots s i v).setup = s.setup ∧
    (changeSlots s i v).start = s.start ∧ (changeSlots s i v).traffic = s.traffic ∧
    (changeSlots s i v).offers = s.offers ∧ (changeSlots s i v).seats = s.seats ∧
    (changeSlots s i v).journal = s.journal ∧ (changeSlots s i v).holds = s.holds ∧
    (changeSlots s i v).clock = s.clock ∧ (changeSlots s i v).due = s.due ∧ (changeSlots s i v).roster = s.roster ∧
    (changeSlots s i v).painter = s.painter ∧ (changeSlots s i v).notices = s.notices ∧
    (changeSlots s i v).scan = s.scan ∧ (changeSlots s i v).reports = s.reports ∧
    (changeSlots s i v).memOut = s.memOut ∧ (changeSlots s i v).ctlOut = s.ctlOut ∧
    (changeSlots s i v).free = s.free ∧ (changeSlots s i v).pending = s.pending := by
  unfold changeSlots
  dsimp only
  (repeat' split) <;> simp

@[simp] theorem releaseSlot_keeps (s : State) (i : StreamIx) (k : FrameIx) :
    (releaseSlot s i k).resetN = s.resetN ∧ (releaseSlot s i k).lrstN = s.lrstN ∧ (releaseSlot s i k).part = s.part ∧
    (releaseSlot s i k).decoder = s.decoder ∧ (releaseSlot s i k).setup = s.setup ∧
    (releaseSlot s i k).start = s.start ∧ (releaseSlot s i k).traffic = s.traffic ∧
    (releaseSlot s i k).offers = s.offers ∧ (releaseSlot s i k).seats = s.seats ∧
    (releaseSlot s i k).journal = s.journal ∧ (releaseSlot s i k).holds = s.holds ∧
    (releaseSlot s i k).clock = s.clock ∧ (releaseSlot s i k).due = s.due ∧ (releaseSlot s i k).roster = s.roster ∧
    (releaseSlot s i k).painter = s.painter ∧ (releaseSlot s i k).notices = s.notices ∧
    (releaseSlot s i k).scan = s.scan ∧ (releaseSlot s i k).reports = s.reports ∧
    (releaseSlot s i k).memOut = s.memOut ∧ (releaseSlot s i k).ctlOut = s.ctlOut ∧
    (releaseSlot s i k).free = s.free ∧ (releaseSlot s i k).pending = s.pending := by
  simp [releaseSlot]

@[simp] theorem slotPixelWrite_keeps (s : State) (i : StreamIx) (k : FrameIx) :
    (slotPixelWrite s i k).resetN = s.resetN ∧ (slotPixelWrite s i k).lrstN = s.lrstN ∧
    (slotPixelWrite s i k).part = s.part ∧ (slotPixelWrite s i k).decoder = s.decoder ∧
    (slotPixelWrite s i k).setup = s.setup ∧ (slotPixelWrite s i k).start = s.start ∧
    (slotPixelWrite s i k).traffic = s.traffic ∧ (slotPixelWrite s i k).offers = s.offers ∧
    (slotPixelWrite s i k).seats = s.seats ∧ (slotPixelWrite s i k).journal = s.journal ∧
    (slotPixelWrite s i k).holds = s.holds ∧ (slotPixelWrite s i k).clock = s.clock ∧
    (slotPixelWrite s i k).due = s.due ∧ (slotPixelWrite s i k).roster = s.roster ∧
    (slotPixelWrite s i k).painter = s.painter ∧ (slotPixelWrite s i k).notices = s.notices ∧
    (slotPixelWrite s i k).scan = s.scan ∧ (slotPixelWrite s i k).memOut = s.memOut ∧
    (slotPixelWrite s i k).ctlOut = s.ctlOut ∧ (slotPixelWrite s i k).free = s.free ∧
    (slotPixelWrite s i k).pending = s.pending := by
  unfold slotPixelWrite fillSlot
  dsimp only
  (repeat' split) <;> simp

@[simp] theorem cueStream_keeps (s : State) (i : StreamIx) :
    (cueStream s i).resetN = s.resetN ∧ (cueStream s i).lrstN = s.lrstN ∧ (cueStream s i).part = s.part ∧
    (cueStream s i).decoder = s.decoder ∧ (cueStream s i).setup = s.setup ∧ (cueStream s i).start = s.start ∧
    (cueStream s i).traffic = s.traffic ∧ (cueStream s i).offers = s.offers ∧ (cueStream s i).seats = s.seats ∧
    (cueStream s i).journal = s.journal ∧ (cueStream s i).holds = s.holds ∧ (cueStream s i).clock = s.clock ∧
    (cueStream s i).due = s.due ∧ (cueStream s i).roster = s.roster ∧ (cueStream s i).painter = s.painter ∧
    (cueStream s i).notices = s.notices ∧ (cueStream s i).scan = s.scan ∧ (cueStream s i).memOut = s.memOut ∧
    (cueStream s i).ctlOut = s.ctlOut ∧ (cueStream s i).free = s.free ∧ (cueStream s i).pending = s.pending := by
  simp [cueStream]

@[simp] theorem cueTest_keeps (s : State) (i : StreamIx) :
    (cueTest s i).resetN = s.resetN ∧ (cueTest s i).lrstN = s.lrstN ∧ (cueTest s i).part = s.part ∧
    (cueTest s i).decoder = s.decoder ∧ (cueTest s i).setup = s.setup ∧ (cueTest s i).start = s.start ∧
    (cueTest s i).traffic = s.traffic ∧ (cueTest s i).offers = s.offers ∧ (cueTest s i).seats = s.seats ∧
    (cueTest s i).journal = s.journal ∧ (cueTest s i).holds = s.holds ∧ (cueTest s i).clock = s.clock ∧
    (cueTest s i).due = s.due ∧ (cueTest s i).roster = s.roster ∧ (cueTest s i).painter = s.painter ∧
    (cueTest s i).notices = s.notices ∧ (cueTest s i).scan = s.scan ∧ (cueTest s i).memOut = s.memOut ∧
    (cueTest s i).ctlOut = s.ctlOut ∧ (cueTest s i).free = s.free ∧ (cueTest s i).pending = s.pending := by
  unfold cueTest
  dsimp only
  (repeat' split) <;> simp

@[simp] theorem countFrame_keeps (s : State) (i : StreamIx) (x : Option CatalogIx) :
    (countFrame s i x).resetN = s.resetN ∧ (countFrame s i x).lrstN = s.lrstN ∧ (countFrame s i x).part = s.part ∧
    (countFrame s i x).decoder = s.decoder ∧ (countFrame s i x).setup = s.setup ∧ (countFrame s i x).start = s.start ∧
    (countFrame s i x).traffic = s.traffic ∧ (countFrame s i x).offers = s.offers ∧
    (countFrame s i x).seats = s.seats ∧ (countFrame s i x).journal = s.journal ∧ (countFrame s i x).holds = s.holds ∧
    (countFrame s i x).clock = s.clock ∧ (countFrame s i x).due = s.due ∧ (countFrame s i x).roster = s.roster ∧
    (countFrame s i x).painter = s.painter ∧ (countFrame s i x).notices = s.notices ∧
    (countFrame s i x).scan = s.scan ∧ (countFrame s i x).memOut = s.memOut ∧ (countFrame s i x).ctlOut = s.ctlOut ∧
    (countFrame s i x).free = s.free ∧ (countFrame s i x).pending = s.pending := by
  unfold countFrame
  dsimp only
  (repeat' split) <;> simp

@[simp] theorem tagCommit_keeps (s : State) (i : StreamIx) (k : FrameIx) (bs : List Byte) :
    (tagCommit s i k bs).resetN = s.resetN ∧ (tagCommit s i k bs).lrstN = s.lrstN ∧
    (tagCommit s i k bs).part = s.part ∧ (tagCommit s i k bs).decoder = s.decoder ∧
    (tagCommit s i k bs).setup = s.setup ∧ (tagCommit s i k bs).start = s.start ∧
    (tagCommit s i k bs).traffic = s.traffic ∧ (tagCommit s i k bs).offers = s.offers ∧
    (tagCommit s i k bs).seats = s.seats ∧ (tagCommit s i k bs).journal = s.journal ∧
    (tagCommit s i k bs).holds = s.holds ∧ (tagCommit s i k bs).clock = s.clock ∧ (tagCommit s i k bs).due = s.due ∧
    (tagCommit s i k bs).roster = s.roster ∧ (tagCommit s i k bs).painter = s.painter ∧
    (tagCommit s i k bs).notices = s.notices ∧ (tagCommit s i k bs).scan = s.scan ∧
    (tagCommit s i k bs).memOut = s.memOut ∧ (tagCommit s i k bs).ctlOut = s.ctlOut ∧
    (tagCommit s i k bs).free = s.free ∧ (tagCommit s i k bs).pending = s.pending := by
  unfold tagCommit
  dsimp only
  (repeat' split) <;> simp

@[simp] theorem handCatalog_keeps (s : State) (e : CatalogIx) (bs : List Byte) :
    (handCatalog s e bs).resetN = s.resetN ∧ (handCatalog s e bs).lrstN = s.lrstN ∧
    (handCatalog s e bs).part = s.part ∧ (handCatalog s e bs).decoder = s.decoder ∧
    (handCatalog s e bs).setup = s.setup ∧ (handCatalog s e bs).start = s.start ∧
    (handCatalog s e bs).traffic = s.traffic ∧ (handCatalog s e bs).commit = s.commit ∧
    (handCatalog s e bs).offers = s.offers ∧ (handCatalog s e bs).seats = s.seats ∧
    (handCatalog s e bs).journal = s.journal ∧ (handCatalog s e bs).holds = s.holds ∧
    (handCatalog s e bs).clock = s.clock ∧ (handCatalog s e bs).due = s.due ∧ (handCatalog s e bs).roster = s.roster ∧
    (handCatalog s e bs).painter = s.painter ∧ (handCatalog s e bs).notices = s.notices ∧
    (handCatalog s e bs).scan = s.scan ∧ (handCatalog s e bs).memOut = s.memOut ∧
    (handCatalog s e bs).ctlOut = s.ctlOut ∧ (handCatalog s e bs).free = s.free ∧
    (handCatalog s e bs).pending = s.pending := by
  unfold handCatalog
  dsimp only
  (repeat' split) <;> simp

@[simp] theorem releaseLatch_keeps (s : State) (p : PanelIx) :
    (releaseLatch s p).resetN = s.resetN ∧ (releaseLatch s p).lrstN = s.lrstN ∧ (releaseLatch s p).part = s.part ∧
    (releaseLatch s p).decoder = s.decoder ∧ (releaseLatch s p).setup = s.setup ∧ (releaseLatch s p).start = s.start ∧
    (releaseLatch s p).traffic = s.traffic ∧ (releaseLatch s p).offers = s.offers ∧
    (releaseLatch s p).seats = s.seats ∧ (releaseLatch s p).journal = s.journal ∧ (releaseLatch s p).holds = s.holds ∧
    (releaseLatch s p).clock = s.clock ∧ (releaseLatch s p).due = s.due ∧ (releaseLatch s p).roster = s.roster ∧
    (releaseLatch s p).painter = s.painter ∧ (releaseLatch s p).reports = s.reports ∧
    (releaseLatch s p).memOut = s.memOut ∧ (releaseLatch s p).ctlOut = s.ctlOut ∧ (releaseLatch s p).free = s.free ∧
    (releaseLatch s p).pending = s.pending := by
  unfold releaseLatch
  dsimp only
  (repeat' split) <;> simp

@[simp] theorem latchBanner_keeps (s : State) (p : PanelIx) :
    (latchBanner s p).resetN = s.resetN ∧ (latchBanner s p).lrstN = s.lrstN ∧ (latchBanner s p).part = s.part ∧
    (latchBanner s p).decoder = s.decoder ∧ (latchBanner s p).setup = s.setup ∧ (latchBanner s p).start = s.start ∧
    (latchBanner s p).traffic = s.traffic ∧ (latchBanner s p).commit = s.commit ∧
    (latchBanner s p).offers = s.offers ∧ (latchBanner s p).seats = s.seats ∧ (latchBanner s p).journal = s.journal ∧
    (latchBanner s p).holds = s.holds ∧ (latchBanner s p).clock = s.clock ∧ (latchBanner s p).due = s.due ∧
    (latchBanner s p).roster = s.roster ∧ (latchBanner s p).painter = s.painter ∧
    (latchBanner s p).trailers = s.trailers ∧ (latchBanner s p).reports = s.reports ∧
    (latchBanner s p).memOut = s.memOut ∧ (latchBanner s p).ctlOut = s.ctlOut ∧ (latchBanner s p).free = s.free ∧
    (latchBanner s p).pending = s.pending := by
  unfold latchBanner
  dsimp only
  (repeat' split) <;> simp

@[simp] theorem latchTrailer_keeps (s : State) (p : PanelIx) :
    (latchTrailer s p).resetN = s.resetN ∧ (latchTrailer s p).lrstN = s.lrstN ∧ (latchTrailer s p).part = s.part ∧
    (latchTrailer s p).decoder = s.decoder ∧ (latchTrailer s p).setup = s.setup ∧ (latchTrailer s p).start = s.start ∧
    (latchTrailer s p).traffic = s.traffic ∧ (latchTrailer s p).commit = s.commit ∧
    (latchTrailer s p).offers = s.offers ∧ (latchTrailer s p).seats = s.seats ∧
    (latchTrailer s p).journal = s.journal ∧ (latchTrailer s p).holds = s.holds ∧ (latchTrailer s p).clock = s.clock ∧
    (latchTrailer s p).due = s.due ∧ (latchTrailer s p).roster = s.roster ∧ (latchTrailer s p).painter = s.painter ∧
    (latchTrailer s p).notices = s.notices ∧ (latchTrailer s p).reports = s.reports ∧
    (latchTrailer s p).memOut = s.memOut ∧ (latchTrailer s p).ctlOut = s.ctlOut ∧ (latchTrailer s p).free = s.free ∧
    (latchTrailer s p).pending = s.pending := by
  unfold latchTrailer
  dsimp only
  (repeat' split) <;> simp

@[simp] theorem startPass_keeps (s : State) (p : PanelIx) :
    (startPass s p).resetN = s.resetN ∧ (startPass s p).lrstN = s.lrstN ∧ (startPass s p).part = s.part ∧
    (startPass s p).decoder = s.decoder ∧ (startPass s p).setup = s.setup ∧ (startPass s p).start = s.start ∧
    (startPass s p).traffic = s.traffic ∧ (startPass s p).offers = s.offers ∧ (startPass s p).seats = s.seats ∧
    (startPass s p).journal = s.journal ∧ (startPass s p).holds = s.holds ∧ (startPass s p).clock = s.clock ∧
    (startPass s p).due = s.due ∧ (startPass s p).roster = s.roster ∧ (startPass s p).painter = s.painter ∧
    (startPass s p).reports = s.reports ∧ (startPass s p).memOut = s.memOut ∧ (startPass s p).ctlOut = s.ctlOut ∧
    (startPass s p).free = s.free ∧ (startPass s p).pending = s.pending := by
  unfold startPass
  dsimp only
  (repeat' split) <;> simp

@[simp] theorem scanRead_keeps (s : State) (p : PanelIx) (row : Nat) :
    (scanRead s p row).resetN = s.resetN ∧ (scanRead s p row).lrstN = s.lrstN ∧ (scanRead s p row).part = s.part ∧
    (scanRead s p row).decoder = s.decoder ∧ (scanRead s p row).setup = s.setup ∧ (scanRead s p row).start = s.start ∧
    (scanRead s p row).traffic = s.traffic ∧ (scanRead s p row).offers = s.offers ∧
    (scanRead s p row).seats = s.seats ∧ (scanRead s p row).journal = s.journal ∧ (scanRead s p row).holds = s.holds ∧
    (scanRead s p row).clock = s.clock ∧ (scanRead s p row).due = s.due ∧ (scanRead s p row).roster = s.roster ∧
    (scanRead s p row).painter = s.painter ∧ (scanRead s p row).reports = s.reports ∧
    (scanRead s p row).memOut = s.memOut ∧ (scanRead s p row).ctlOut = s.ctlOut ∧ (scanRead s p row).free = s.free ∧
    (scanRead s p row).pending = s.pending := by
  unfold scanRead
  dsimp only
  (repeat' split) <;> simp

@[simp] theorem endPass_keeps (s : State) (p : PanelIx) :
    (endPass s p).resetN = s.resetN ∧ (endPass s p).lrstN = s.lrstN ∧ (endPass s p).part = s.part ∧
    (endPass s p).decoder = s.decoder ∧ (endPass s p).setup = s.setup ∧ (endPass s p).start = s.start ∧
    (endPass s p).traffic = s.traffic ∧ (endPass s p).offers = s.offers ∧ (endPass s p).seats = s.seats ∧
    (endPass s p).journal = s.journal ∧ (endPass s p).holds = s.holds ∧ (endPass s p).clock = s.clock ∧
    (endPass s p).due = s.due ∧ (endPass s p).roster = s.roster ∧ (endPass s p).painter = s.painter ∧
    (endPass s p).reports = s.reports ∧ (endPass s p).memOut = s.memOut ∧ (endPass s p).ctlOut = s.ctlOut ∧
    (endPass s p).free = s.free ∧ (endPass s p).pending = s.pending := by
  unfold endPass
  dsimp only
  (repeat' split) <;> simp

end Sys2Proof.Machine
end

