-- ==== Sys2Proof/Laws/Seats.lean ====
section
/-! SUPPORT. Seat entries, holds and the sale journal. What each operation leaves unchanged, field by field; `simp` uses every one of these facts. -/

namespace Sys2Proof.Machine

@[simp] theorem changeSeat_keeps (s : State) (i : ShowingIx) (e : Seat) :
    (changeSeat s i e).resetN = s.resetN ∧ (changeSeat s i e).lrstN = s.lrstN ∧ (changeSeat s i e).part = s.part ∧
    (changeSeat s i e).decoder = s.decoder ∧ (changeSeat s i e).setup = s.setup ∧ (changeSeat s i e).start = s.start ∧
    (changeSeat s i e).traffic = s.traffic ∧ (changeSeat s i e).offers = s.offers ∧
    (changeSeat s i e).journal = s.journal ∧ (changeSeat s i e).holds = s.holds ∧ (changeSeat s i e).clock = s.clock ∧
    (changeSeat s i e).due = s.due ∧ (changeSeat s i e).notices = s.notices ∧ (changeSeat s i e).scan = s.scan ∧
    (changeSeat s i e).trailers = s.trailers ∧ (changeSeat s i e).memOut = s.memOut ∧
    (changeSeat s i e).ctlOut = s.ctlOut ∧ (changeSeat s i e).free = s.free ∧ (changeSeat s i e).pending = s.pending := by
  unfold changeSeat
  dsimp only
  (repeat' split) <;> simp

@[simp] theorem setCounts_keeps (s : State) (i : ShowingIx) (a b : Nat) :
    (setCounts s i a b).resetN = s.resetN ∧ (setCounts s i a b).lrstN = s.lrstN ∧ (setCounts s i a b).part = s.part ∧
    (setCounts s i a b).decoder = s.decoder ∧ (setCounts s i a b).setup = s.setup ∧
    (setCounts s i a b).start = s.start ∧ (setCounts s i a b).traffic = s.traffic ∧
    (setCounts s i a b).offers = s.offers ∧ (setCounts s i a b).journal = s.journal ∧
    (setCounts s i a b).holds = s.holds ∧ (setCounts s i a b).clock = s.clock ∧ (setCounts s i a b).due = s.due ∧
    (setCounts s i a b).notices = s.notices ∧ (setCounts s i a b).scan = s.scan ∧
    (setCounts s i a b).trailers = s.trailers ∧ (setCounts s i a b).memOut = s.memOut ∧
    (setCounts s i a b).ctlOut = s.ctlOut ∧ (setCounts s i a b).free = s.free ∧
    (setCounts s i a b).pending = s.pending := by
  simp [setCounts]

@[simp] theorem enterPhase_keeps (s : State) (i : ShowingIx) (e : Seat) (p : Phase) :
    ((enterPhase s i e p).1).resetN = s.resetN ∧ ((enterPhase s i e p).1).lrstN = s.lrstN ∧
    ((enterPhase s i e p).1).part = s.part ∧ ((enterPhase s i e p).1).decoder = s.decoder ∧
    ((enterPhase s i e p).1).setup = s.setup ∧ ((enterPhase s i e p).1).start = s.start ∧
    ((enterPhase s i e p).1).traffic = s.traffic ∧ ((enterPhase s i e p).1).commit = s.commit ∧
    ((enterPhase s i e p).1).offers = s.offers ∧ ((enterPhase s i e p).1).seats = s.seats ∧
    ((enterPhase s i e p).1).journal = s.journal ∧ ((enterPhase s i e p).1).clock = s.clock ∧
    ((enterPhase s i e p).1).roster = s.roster ∧ ((enterPhase s i e p).1).painter = s.painter ∧
    ((enterPhase s i e p).1).notices = s.notices ∧ ((enterPhase s i e p).1).scan = s.scan ∧
    ((enterPhase s i e p).1).trailers = s.trailers ∧ ((enterPhase s i e p).1).reports = s.reports ∧
    ((enterPhase s i e p).1).memOut = s.memOut ∧ ((enterPhase s i e p).1).ctlOut = s.ctlOut ∧
    ((enterPhase s i e p).1).free = s.free ∧ ((enterPhase s i e p).1).pending = s.pending := by
  unfold enterPhase
  dsimp only
  (repeat' split) <;> simp

@[simp] theorem firePhase_keeps (s : State) (i : ShowingIx) (p : Phase) :
    (firePhase s i p).resetN = s.resetN ∧ (firePhase s i p).lrstN = s.lrstN ∧ (firePhase s i p).part = s.part ∧
    (firePhase s i p).decoder = s.decoder ∧ (firePhase s i p).setup = s.setup ∧ (firePhase s i p).start = s.start ∧
    (firePhase s i p).traffic = s.traffic ∧ (firePhase s i p).offers = s.offers ∧
    (firePhase s i p).journal = s.journal ∧ (firePhase s i p).clock = s.clock ∧
    (firePhase s i p).notices = s.notices ∧ (firePhase s i p).scan = s.scan ∧
    (firePhase s i p).trailers = s.trailers ∧ (firePhase s i p).memOut = s.memOut ∧
    (firePhase s i p).ctlOut = s.ctlOut ∧ (firePhase s i p).free = s.free ∧ (firePhase s i p).pending = s.pending := by
  simp [firePhase]

@[simp] theorem openShowing_keeps (s : State) (i : ShowingIx) (r : ShowingRec) :
    (openShowing s i r).resetN = s.resetN ∧ (openShowing s i r).lrstN = s.lrstN ∧ (openShowing s i r).part = s.part ∧
    (openShowing s i r).decoder = s.decoder ∧ (openShowing s i r).setup = s.setup ∧
    (openShowing s i r).start = s.start ∧ (openShowing s i r).traffic = s.traffic ∧
    (openShowing s i r).offers = s.offers ∧ (openShowing s i r).journal = s.journal ∧
    (openShowing s i r).clock = s.clock ∧ (openShowing s i r).notices = s.notices ∧
    (openShowing s i r).scan = s.scan ∧ (openShowing s i r).trailers = s.trailers ∧
    (openShowing s i r).memOut = s.memOut ∧ (openShowing s i r).ctlOut = s.ctlOut ∧
    (openShowing s i r).free = s.free ∧ (openShowing s i r).pending = s.pending := by
  simp [openShowing]

@[simp] theorem cancelShowing_keeps (s : State) (i : ShowingIx) (r : ShowingRec) :
    (cancelShowing s i r).resetN = s.resetN ∧ (cancelShowing s i r).lrstN = s.lrstN ∧
    (cancelShowing s i r).part = s.part ∧ (cancelShowing s i r).decoder = s.decoder ∧
    (cancelShowing s i r).setup = s.setup ∧ (cancelShowing s i r).start = s.start ∧
    (cancelShowing s i r).traffic = s.traffic ∧ (cancelShowing s i r).offers = s.offers ∧
    (cancelShowing s i r).journal = s.journal ∧ (cancelShowing s i r).clock = s.clock ∧
    (cancelShowing s i r).notices = s.notices ∧ (cancelShowing s i r).scan = s.scan ∧
    (cancelShowing s i r).trailers = s.trailers ∧ (cancelShowing s i r).memOut = s.memOut ∧
    (cancelShowing s i r).ctlOut = s.ctlOut ∧ (cancelShowing s i r).free = s.free ∧
    (cancelShowing s i r).pending = s.pending := by
  simp [cancelShowing]

@[simp] theorem vacateShowing_keeps (s : State) (i : ShowingIx) :
    (vacateShowing s i).resetN = s.resetN ∧ (vacateShowing s i).lrstN = s.lrstN ∧ (vacateShowing s i).part = s.part ∧
    (vacateShowing s i).decoder = s.decoder ∧ (vacateShowing s i).setup = s.setup ∧
    (vacateShowing s i).start = s.start ∧ (vacateShowing s i).traffic = s.traffic ∧
    (vacateShowing s i).offers = s.offers ∧ (vacateShowing s i).journal = s.journal ∧
    (vacateShowing s i).clock = s.clock ∧ (vacateShowing s i).notices = s.notices ∧
    (vacateShowing s i).scan = s.scan ∧ (vacateShowing s i).trailers = s.trailers ∧
    (vacateShowing s i).memOut = s.memOut ∧ (vacateShowing s i).ctlOut = s.ctlOut ∧
    (vacateShowing s i).free = s.free ∧ (vacateShowing s i).pending = s.pending := by
  simp [vacateShowing]

@[simp] theorem handShowing_keeps (s : State) (i : ShowingIx) (bs : List Byte) :
    (handShowing s i bs).resetN = s.resetN ∧ (handShowing s i bs).lrstN = s.lrstN ∧
    (handShowing s i bs).part = s.part ∧ (handShowing s i bs).decoder = s.decoder ∧
    (handShowing s i bs).setup = s.setup ∧ (handShowing s i bs).start = s.start ∧
    (handShowing s i bs).traffic = s.traffic ∧ (handShowing s i bs).offers = s.offers ∧
    (handShowing s i bs).journal = s.journal ∧ (handShowing s i bs).clock = s.clock ∧
    (handShowing s i bs).notices = s.notices ∧ (handShowing s i bs).scan = s.scan ∧
    (handShowing s i bs).trailers = s.trailers ∧ (handShowing s i bs).memOut = s.memOut ∧
    (handShowing s i bs).ctlOut = s.ctlOut ∧ (handShowing s i bs).free = s.free ∧
    (handShowing s i bs).pending = s.pending := by
  unfold handShowing
  dsimp only
  (repeat' split) <;> simp

@[simp] theorem buildShowing_keeps (s : State) (i : ShowingIx) (bs : List Byte) :
    (buildShowing s i bs).resetN = s.resetN ∧ (buildShowing s i bs).lrstN = s.lrstN ∧
    (buildShowing s i bs).part = s.part ∧ (buildShowing s i bs).decoder = s.decoder ∧
    (buildShowing s i bs).setup = s.setup ∧ (buildShowing s i bs).start = s.start ∧
    (buildShowing s i bs).traffic = s.traffic ∧ (buildShowing s i bs).commit = s.commit ∧
    (buildShowing s i bs).offers = s.offers ∧ (buildShowing s i bs).journal = s.journal ∧
    (buildShowing s i bs).clock = s.clock ∧ (buildShowing s i bs).roster = s.roster ∧
    (buildShowing s i bs).painter = s.painter ∧ (buildShowing s i bs).notices = s.notices ∧
    (buildShowing s i bs).scan = s.scan ∧ (buildShowing s i bs).trailers = s.trailers ∧
    (buildShowing s i bs).memOut = s.memOut ∧ (buildShowing s i bs).ctlOut = s.ctlOut ∧
    (buildShowing s i bs).free = s.free ∧ (buildShowing s i bs).pending = s.pending := by
  unfold buildShowing
  dsimp only
  (repeat' split) <;> simp

@[simp] theorem buildShowingFault_keeps (s : State) (i : ShowingIx) :
    (buildShowingFault s i).resetN = s.resetN ∧ (buildShowingFault s i).lrstN = s.lrstN ∧
    (buildShowingFault s i).part = s.part ∧ (buildShowingFault s i).decoder = s.decoder ∧
    (buildShowingFault s i).setup = s.setup ∧ (buildShowingFault s i).start = s.start ∧
    (buildShowingFault s i).traffic = s.traffic ∧ (buildShowingFault s i).commit = s.commit ∧
    (buildShowingFault s i).offers = s.offers ∧ (buildShowingFault s i).journal = s.journal ∧
    (buildShowingFault s i).holds = s.holds ∧ (buildShowingFault s i).clock = s.clock ∧
    (buildShowingFault s i).due = s.due ∧ (buildShowingFault s i).roster = s.roster ∧
    (buildShowingFault s i).painter = s.painter ∧ (buildShowingFault s i).notices = s.notices ∧
    (buildShowingFault s i).scan = s.scan ∧ (buildShowingFault s i).trailers = s.trailers ∧
    (buildShowingFault s i).reports = s.reports ∧ (buildShowingFault s i).memOut = s.memOut ∧
    (buildShowingFault s i).ctlOut = s.ctlOut ∧ (buildShowingFault s i).free = s.free ∧
    (buildShowingFault s i).pending = s.pending := by
  simp [buildShowingFault]

@[simp] theorem slotCommitted_keeps (s : State) (i : JournalIx) :
    (slotCommitted s i).resetN = s.resetN ∧ (slotCommitted s i).lrstN = s.lrstN ∧ (slotCommitted s i).part = s.part ∧
    (slotCommitted s i).decoder = s.decoder ∧ (slotCommitted s i).setup = s.setup ∧
    (slotCommitted s i).start = s.start ∧ (slotCommitted s i).traffic = s.traffic ∧
    (slotCommitted s i).commit = s.commit ∧ (slotCommitted s i).offers = s.offers ∧
    (slotCommitted s i).seats = s.seats ∧ (slotCommitted s i).holds = s.holds ∧ (slotCommitted s i).clock = s.clock ∧
    (slotCommitted s i).due = s.due ∧ (slotCommitted s i).roster = s.roster ∧
    (slotCommitted s i).painter = s.painter ∧ (slotCommitted s i).notices = s.notices ∧
    (slotCommitted s i).scan = s.scan ∧ (slotCommitted s i).trailers = s.trailers ∧
    (slotCommitted s i).reports = s.reports ∧ (slotCommitted s i).memOut = s.memOut ∧
    (slotCommitted s i).ctlOut = s.ctlOut ∧ (slotCommitted s i).free = s.free ∧
    (slotCommitted s i).pending = s.pending := by
  unfold slotCommitted
  dsimp only
  (repeat' split) <;> simp

@[simp] theorem lapWritten_keeps (s : State) (i : JournalIx) (v : Byte) :
    (lapWritten s i v).resetN = s.resetN ∧ (lapWritten s i v).lrstN = s.lrstN ∧ (lapWritten s i v).part = s.part ∧
    (lapWritten s i v).decoder = s.decoder ∧ (lapWritten s i v).setup = s.setup ∧ (lapWritten s i v).start = s.start ∧
    (lapWritten s i v).traffic = s.traffic ∧ (lapWritten s i v).commit = s.commit ∧
    (lapWritten s i v).offers = s.offers ∧ (lapWritten s i v).seats = s.seats ∧ (lapWritten s i v).holds = s.holds ∧
    (lapWritten s i v).clock = s.clock ∧ (lapWritten s i v).due = s.due ∧ (lapWritten s i v).roster = s.roster ∧
    (lapWritten s i v).painter = s.painter ∧ (lapWritten s i v).notices = s.notices ∧
    (lapWritten s i v).scan = s.scan ∧ (lapWritten s i v).trailers = s.trailers ∧
    (lapWritten s i v).memOut = s.memOut ∧ (lapWritten s i v).ctlOut = s.ctlOut ∧ (lapWritten s i v).free = s.free ∧
    (lapWritten s i v).pending = s.pending := by
  unfold lapWritten
  dsimp only
  (repeat' split) <;> simp

@[simp] theorem gateRefused_keeps (s : State) (k : JournalIx) (r : JournalRec) :
    (gateRefused s k r).resetN = s.resetN ∧ (gateRefused s k r).lrstN = s.lrstN ∧ (gateRefused s k r).part = s.part ∧
    (gateRefused s k r).decoder = s.decoder ∧ (gateRefused s k r).setup = s.setup ∧
    (gateRefused s k r).start = s.start ∧ (gateRefused s k r).traffic = s.traffic ∧
    (gateRefused s k r).commit = s.commit ∧ (gateRefused s k r).offers = s.offers ∧
    (gateRefused s k r).seats = s.seats ∧ (gateRefused s k r).journal = s.journal ∧
    (gateRefused s k r).holds = s.holds ∧ (gateRefused s k r).clock = s.clock ∧ (gateRefused s k r).due = s.due ∧
    (gateRefused s k r).roster = s.roster ∧ (gateRefused s k r).painter = s.painter ∧
    (gateRefused s k r).notices = s.notices ∧ (gateRefused s k r).scan = s.scan ∧
    (gateRefused s k r).trailers = s.trailers ∧ (gateRefused s k r).memOut = s.memOut ∧
    (gateRefused s k r).ctlOut = s.ctlOut ∧ (gateRefused s k r).free = s.free ∧
    (gateRefused s k r).pending = s.pending := by
  simp [gateRefused]

@[simp] theorem clampReport_keeps (s : State) (x : ReportKind) (k : JournalIx) (r : JournalRec) (n : Nat) :
    (clampReport s x k r n).resetN = s.resetN ∧ (clampReport s x k r n).lrstN = s.lrstN ∧
    (clampReport s x k r n).part = s.part ∧ (clampReport s x k r n).decoder = s.decoder ∧
    (clampReport s x k r n).setup = s.setup ∧ (clampReport s x k r n).start = s.start ∧
    (clampReport s x k r n).traffic = s.traffic ∧ (clampReport s x k r n).commit = s.commit ∧
    (clampReport s x k r n).offers = s.offers ∧ (clampReport s x k r n).seats = s.seats ∧
    (clampReport s x k r n).journal = s.journal ∧ (clampReport s x k r n).holds = s.holds ∧
    (clampReport s x k r n).clock = s.clock ∧ (clampReport s x k r n).due = s.due ∧
    (clampReport s x k r n).roster = s.roster ∧ (clampReport s x k r n).painter = s.painter ∧
    (clampReport s x k r n).notices = s.notices ∧ (clampReport s x k r n).scan = s.scan ∧
    (clampReport s x k r n).trailers = s.trailers ∧ (clampReport s x k r n).memOut = s.memOut ∧
    (clampReport s x k r n).ctlOut = s.ctlOut ∧ (clampReport s x k r n).free = s.free ∧
    (clampReport s x k r n).pending = s.pending := by
  unfold clampReport
  (repeat' split) <;> simp

@[simp] theorem holdRefused_keeps (s : State) (k : JournalIx) (r : JournalRec) (n : Nat) :
    (holdRefused s k r n).resetN = s.resetN ∧ (holdRefused s k r n).lrstN = s.lrstN ∧
    (holdRefused s k r n).part = s.part ∧ (holdRefused s k r n).decoder = s.decoder ∧
    (holdRefused s k r n).setup = s.setup ∧ (holdRefused s k r n).start = s.start ∧
    (holdRefused s k r n).traffic = s.traffic ∧ (holdRefused s k r n).commit = s.commit ∧
    (holdRefused s k r n).offers = s.offers ∧ (holdRefused s k r n).seats = s.seats ∧
    (holdRefused s k r n).journal = s.journal ∧ (holdRefused s k r n).holds = s.holds ∧
    (holdRefused s k r n).clock = s.clock ∧ (holdRefused s k r n).due = s.due ∧
    (holdRefused s k r n).roster = s.roster ∧ (holdRefused s k r n).painter = s.painter ∧
    (holdRefused s k r n).notices = s.notices ∧ (holdRefused s k r n).scan = s.scan ∧
    (holdRefused s k r n).trailers = s.trailers ∧ (holdRefused s k r n).memOut = s.memOut ∧
    (holdRefused s k r n).ctlOut = s.ctlOut ∧ (holdRefused s k r n).free = s.free ∧
    (holdRefused s k r n).pending = s.pending := by
  simp [holdRefused]

@[simp] theorem sellSeats_keeps (s : State) (k : JournalIx) (r : JournalRec) :
    (sellSeats s k r).resetN = s.resetN ∧ (sellSeats s k r).lrstN = s.lrstN ∧ (sellSeats s k r).part = s.part ∧
    (sellSeats s k r).decoder = s.decoder ∧ (sellSeats s k r).setup = s.setup ∧ (sellSeats s k r).start = s.start ∧
    (sellSeats s k r).traffic = s.traffic ∧ (sellSeats s k r).offers = s.offers ∧
    (sellSeats s k r).journal = s.journal ∧ (sellSeats s k r).holds = s.holds ∧ (sellSeats s k r).clock = s.clock ∧
    (sellSeats s k r).due = s.due ∧ (sellSeats s k r).notices = s.notices ∧ (sellSeats s k r).scan = s.scan ∧
    (sellSeats s k r).trailers = s.trailers ∧ (sellSeats s k r).memOut = s.memOut ∧
    (sellSeats s k r).ctlOut = s.ctlOut ∧ (sellSeats s k r).free = s.free ∧ (sellSeats s k r).pending = s.pending := by
  simp [sellSeats]

@[simp] theorem sell_keeps (s : State) (k : JournalIx) (r : JournalRec) :
    (sell s k r).resetN = s.resetN ∧ (sell s k r).lrstN = s.lrstN ∧ (sell s k r).part = s.part ∧
    (sell s k r).decoder = s.decoder ∧ (sell s k r).setup = s.setup ∧ (sell s k r).start = s.start ∧
    (sell s k r).traffic = s.traffic ∧ (sell s k r).offers = s.offers ∧ (sell s k r).journal = s.journal ∧
    (sell s k r).holds = s.holds ∧ (sell s k r).clock = s.clock ∧ (sell s k r).due = s.due ∧
    (sell s k r).notices = s.notices ∧ (sell s k r).scan = s.scan ∧ (sell s k r).trailers = s.trailers ∧
    (sell s k r).memOut = s.memOut ∧ (sell s k r).ctlOut = s.ctlOut ∧ (sell s k r).free = s.free ∧
    (sell s k r).pending = s.pending := by
  unfold sell
  (repeat' split) <;> simp

@[simp] theorem refund_keeps (s : State) (k : JournalIx) (r : JournalRec) :
    (refund s k r).resetN = s.resetN ∧ (refund s k r).lrstN = s.lrstN ∧ (refund s k r).part = s.part ∧
    (refund s k r).decoder = s.decoder ∧ (refund s k r).setup = s.setup ∧ (refund s k r).start = s.start ∧
    (refund s k r).traffic = s.traffic ∧ (refund s k r).offers = s.offers ∧ (refund s k r).journal = s.journal ∧
    (refund s k r).holds = s.holds ∧ (refund s k r).clock = s.clock ∧ (refund s k r).due = s.due ∧
    (refund s k r).notices = s.notices ∧ (refund s k r).scan = s.scan ∧ (refund s k r).trailers = s.trailers ∧
    (refund s k r).memOut = s.memOut ∧ (refund s k r).ctlOut = s.ctlOut ∧ (refund s k r).free = s.free ∧
    (refund s k r).pending = s.pending := by
  simp [refund]

@[simp] theorem hold_keeps (s : State) (k : JournalIx) (r : JournalRec) :
    (hold s k r).resetN = s.resetN ∧ (hold s k r).lrstN = s.lrstN ∧ (hold s k r).part = s.part ∧
    (hold s k r).decoder = s.decoder ∧ (hold s k r).setup = s.setup ∧ (hold s k r).start = s.start ∧
    (hold s k r).traffic = s.traffic ∧ (hold s k r).offers = s.offers ∧ (hold s k r).journal = s.journal ∧
    (hold s k r).clock = s.clock ∧ (hold s k r).notices = s.notices ∧ (hold s k r).scan = s.scan ∧
    (hold s k r).trailers = s.trailers ∧ (hold s k r).memOut = s.memOut ∧ (hold s k r).ctlOut = s.ctlOut ∧
    (hold s k r).free = s.free ∧ (hold s k r).pending = s.pending := by
  unfold hold
  dsimp only
  (repeat' split) <;> simp

@[simp] theorem convert_keeps (s : State) (k : JournalIx) (r : JournalRec) :
    (convert s k r).resetN = s.resetN ∧ (convert s k r).lrstN = s.lrstN ∧ (convert s k r).part = s.part ∧
    (convert s k r).decoder = s.decoder ∧ (convert s k r).setup = s.setup ∧ (convert s k r).start = s.start ∧
    (convert s k r).traffic = s.traffic ∧ (convert s k r).offers = s.offers ∧ (convert s k r).journal = s.journal ∧
    (convert s k r).clock = s.clock ∧ (convert s k r).notices = s.notices ∧ (convert s k r).scan = s.scan ∧
    (convert s k r).trailers = s.trailers ∧ (convert s k r).memOut = s.memOut ∧ (convert s k r).ctlOut = s.ctlOut ∧
    (convert s k r).free = s.free ∧ (convert s k r).pending = s.pending := by
  unfold convert
  dsimp only
  (repeat' split) <;> simp

@[simp] theorem release_keeps (s : State) (k : JournalIx) (r : JournalRec) :
    (release s k r).resetN = s.resetN ∧ (release s k r).lrstN = s.lrstN ∧ (release s k r).part = s.part ∧
    (release s k r).decoder = s.decoder ∧ (release s k r).setup = s.setup ∧ (release s k r).start = s.start ∧
    (release s k r).traffic = s.traffic ∧ (release s k r).offers = s.offers ∧ (release s k r).journal = s.journal ∧
    (release s k r).clock = s.clock ∧ (release s k r).notices = s.notices ∧ (release s k r).scan = s.scan ∧
    (release s k r).trailers = s.trailers ∧ (release s k r).memOut = s.memOut ∧ (release s k r).ctlOut = s.ctlOut ∧
    (release s k r).free = s.free ∧ (release s k r).pending = s.pending := by
  unfold release
  dsimp only
  (repeat' split) <;> simp

@[simp] theorem applyJournal_keeps (s : State) (r : JournalRec) :
    (applyJournal s r).resetN = s.resetN ∧ (applyJournal s r).lrstN = s.lrstN ∧ (applyJournal s r).part = s.part ∧
    (applyJournal s r).decoder = s.decoder ∧ (applyJournal s r).setup = s.setup ∧ (applyJournal s r).start = s.start ∧
    (applyJournal s r).traffic = s.traffic ∧ (applyJournal s r).offers = s.offers ∧
    (applyJournal s r).journal = s.journal ∧ (applyJournal s r).clock = s.clock ∧
    (applyJournal s r).notices = s.notices ∧ (applyJournal s r).scan = s.scan ∧
    (applyJournal s r).trailers = s.trailers ∧ (applyJournal s r).memOut = s.memOut ∧
    (applyJournal s r).ctlOut = s.ctlOut ∧ (applyJournal s r).free = s.free ∧ (applyJournal s r).pending = s.pending := by
  unfold applyJournal
  dsimp only
  (repeat' split) <;> simp

@[simp] theorem expireHold_keeps (s : State) (h : HoldIx) :
    (expireHold s h).resetN = s.resetN ∧ (expireHold s h).lrstN = s.lrstN ∧ (expireHold s h).part = s.part ∧
    (expireHold s h).decoder = s.decoder ∧ (expireHold s h).setup = s.setup ∧ (expireHold s h).start = s.start ∧
    (expireHold s h).traffic = s.traffic ∧ (expireHold s h).offers = s.offers ∧ (expireHold s h).journal = s.journal ∧
    (expireHold s h).clock = s.clock ∧ (expireHold s h).notices = s.notices ∧ (expireHold s h).scan = s.scan ∧
    (expireHold s h).trailers = s.trailers ∧ (expireHold s h).memOut = s.memOut ∧ (expireHold s h).ctlOut = s.ctlOut ∧
    (expireHold s h).free = s.free ∧ (expireHold s h).pending = s.pending := by
  unfold expireHold
  dsimp only
  (repeat' split) <;> simp

@[simp] theorem skipGap_keeps (s : State) :
    (skipGap s).resetN = s.resetN ∧ (skipGap s).lrstN = s.lrstN ∧ (skipGap s).part = s.part ∧
    (skipGap s).decoder = s.decoder ∧ (skipGap s).setup = s.setup ∧ (skipGap s).start = s.start ∧
    (skipGap s).traffic = s.traffic ∧ (skipGap s).offers = s.offers ∧ (skipGap s).seats = s.seats ∧
    (skipGap s).holds = s.holds ∧ (skipGap s).clock = s.clock ∧ (skipGap s).due = s.due ∧
    (skipGap s).roster = s.roster ∧ (skipGap s).painter = s.painter ∧ (skipGap s).notices = s.notices ∧
    (skipGap s).scan = s.scan ∧ (skipGap s).trailers = s.trailers ∧ (skipGap s).memOut = s.memOut ∧
    (skipGap s).ctlOut = s.ctlOut ∧ (skipGap s).free = s.free ∧ (skipGap s).pending = s.pending := by
  simp [skipGap]

@[simp] theorem skipFaulted_keeps (s : State) :
    (skipFaulted s).resetN = s.resetN ∧ (skipFaulted s).lrstN = s.lrstN ∧ (skipFaulted s).part = s.part ∧
    (skipFaulted s).decoder = s.decoder ∧ (skipFaulted s).setup = s.setup ∧ (skipFaulted s).start = s.start ∧
    (skipFaulted s).traffic = s.traffic ∧ (skipFaulted s).offers = s.offers ∧ (skipFaulted s).seats = s.seats ∧
    (skipFaulted s).holds = s.holds ∧ (skipFaulted s).clock = s.clock ∧ (skipFaulted s).due = s.due ∧
    (skipFaulted s).roster = s.roster ∧ (skipFaulted s).painter = s.painter ∧ (skipFaulted s).notices = s.notices ∧
    (skipFaulted s).scan = s.scan ∧ (skipFaulted s).trailers = s.trailers ∧ (skipFaulted s).memOut = s.memOut ∧
    (skipFaulted s).ctlOut = s.ctlOut ∧ (skipFaulted s).pending = s.pending := by
  simp [skipFaulted]

end Sys2Proof.Machine
end

