-- ==== Sys2Proof/Laws/Owners.lean ====
section
/-! SUPPORT. Containment, restarts, lobby time, commits, record fetches, loads and the answers to own requests. What each operation leaves unchanged, field by field; `simp` uses every one of these facts. -/

namespace Sys2Proof.Machine

@[simp] theorem enterTransparent_keeps (s : State) :
    (enterTransparent s).resetN = s.resetN ∧ (enterTransparent s).lrstN = s.lrstN ∧
    (enterTransparent s).decoder = s.decoder ∧ (enterTransparent s).setup = s.setup ∧
    (enterTransparent s).start = s.start ∧ (enterTransparent s).offers = s.offers ∧
    (enterTransparent s).seats = s.seats ∧ (enterTransparent s).holds = s.holds ∧
    (enterTransparent s).clock = s.clock ∧ (enterTransparent s).roster = s.roster ∧
    (enterTransparent s).painter = s.painter ∧ (enterTransparent s).notices = s.notices ∧
    (enterTransparent s).trailers = s.trailers ∧ (enterTransparent s).memOut = s.memOut ∧
    (enterTransparent s).ctlOut = s.ctlOut ∧ (enterTransparent s).free = s.free ∧
    (enterTransparent s).pending = s.pending := by
  simp [enterTransparent]

@[simp] theorem contain_keeps (s : State) (c : Containment) :
    (contain s c).resetN = s.resetN ∧ (contain s c).lrstN = s.lrstN ∧ (contain s c).decoder = s.decoder ∧
    (contain s c).setup = s.setup ∧ (contain s c).start = s.start ∧ (contain s c).offers = s.offers ∧
    (contain s c).seats = s.seats ∧ (contain s c).holds = s.holds ∧ (contain s c).clock = s.clock ∧
    (contain s c).roster = s.roster ∧ (contain s c).notices = s.notices ∧ (contain s c).trailers = s.trailers ∧
    (contain s c).memOut = s.memOut ∧ (contain s c).ctlOut = s.ctlOut ∧ (contain s c).free = s.free ∧
    (contain s c).pending = s.pending := by
  unfold contain
  (repeat' split) <;> simp

@[simp] theorem memoryFault_keeps (s : State) (r : Requester) (a : BitVec 32) (w : Bool) :
    (memoryFault s r a w).resetN = s.resetN ∧ (memoryFault s r a w).lrstN = s.lrstN ∧
    (memoryFault s r a w).decoder = s.decoder ∧ (memoryFault s r a w).setup = s.setup ∧
    (memoryFault s r a w).start = s.start ∧ (memoryFault s r a w).offers = s.offers ∧
    (memoryFault s r a w).seats = s.seats ∧ (memoryFault s r a w).holds = s.holds ∧
    (memoryFault s r a w).clock = s.clock ∧ (memoryFault s r a w).roster = s.roster ∧
    (memoryFault s r a w).notices = s.notices ∧ (memoryFault s r a w).trailers = s.trailers ∧
    (memoryFault s r a w).memOut = s.memOut ∧ (memoryFault s r a w).ctlOut = s.ctlOut ∧
    (memoryFault s r a w).free = s.free ∧ (memoryFault s r a w).pending = s.pending := by
  simp [memoryFault]

@[simp] theorem reportWriteFault_keeps (s : State) (b : Bool) :
    (reportWriteFault s b).resetN = s.resetN ∧ (reportWriteFault s b).lrstN = s.lrstN ∧
    (reportWriteFault s b).decoder = s.decoder ∧ (reportWriteFault s b).setup = s.setup ∧
    (reportWriteFault s b).start = s.start ∧ (reportWriteFault s b).offers = s.offers ∧
    (reportWriteFault s b).seats = s.seats ∧ (reportWriteFault s b).holds = s.holds ∧
    (reportWriteFault s b).clock = s.clock ∧ (reportWriteFault s b).roster = s.roster ∧
    (reportWriteFault s b).notices = s.notices ∧ (reportWriteFault s b).trailers = s.trailers ∧
    (reportWriteFault s b).memOut = s.memOut ∧ (reportWriteFault s b).ctlOut = s.ctlOut ∧
    (reportWriteFault s b).free = s.free ∧ (reportWriteFault s b).pending = s.pending := by
  simp [reportWriteFault]

@[simp] theorem beginRestart_keeps (s : State) :
    (beginRestart s).resetN = s.resetN ∧ (beginRestart s).lrstN = s.lrstN ∧ (beginRestart s).decoder = s.decoder ∧
    (beginRestart s).setup = s.setup ∧ (beginRestart s).commit = s.commit ∧ (beginRestart s).offers = s.offers ∧
    (beginRestart s).seats = s.seats ∧ (beginRestart s).holds = s.holds ∧ (beginRestart s).due = s.due ∧
    (beginRestart s).roster = s.roster ∧ (beginRestart s).painter = s.painter ∧ (beginRestart s).notices = s.notices ∧
    (beginRestart s).reports = s.reports ∧
    (beginRestart s).memOut = s.memOut ∧ (beginRestart s).ctlOut = s.ctlOut ∧ (beginRestart s).free = s.free ∧
    (beginRestart s).pending = s.pending := by
  simp [beginRestart]

@[simp] theorem requestRestart_keeps (s : State) :
    (requestRestart s).resetN = s.resetN ∧ (requestRestart s).lrstN = s.lrstN ∧
    (requestRestart s).decoder = s.decoder ∧ (requestRestart s).setup = s.setup ∧
    (requestRestart s).commit = s.commit ∧ (requestRestart s).offers = s.offers ∧ (requestRestart s).seats = s.seats ∧
    (requestRestart s).holds = s.holds ∧ (requestRestart s).due = s.due ∧ (requestRestart s).roster = s.roster ∧
    (requestRestart s).painter = s.painter ∧ (requestRestart s).notices = s.notices ∧
    (requestRestart s).reports = s.reports ∧
    (requestRestart s).memOut = s.memOut ∧ (requestRestart s).ctlOut = s.ctlOut ∧ (requestRestart s).free = s.free ∧
    (requestRestart s).pending = s.pending := by
  unfold requestRestart
  (repeat' split) <;> simp

@[simp] theorem secondAdvance_keeps (s : State) :
    (secondAdvance s).resetN = s.resetN ∧ (secondAdvance s).lrstN = s.lrstN ∧ (secondAdvance s).part = s.part ∧
    (secondAdvance s).decoder = s.decoder ∧ (secondAdvance s).setup = s.setup ∧ (secondAdvance s).start = s.start ∧
    (secondAdvance s).traffic = s.traffic ∧ (secondAdvance s).commit = s.commit ∧
    (secondAdvance s).offers = s.offers ∧ (secondAdvance s).seats = s.seats ∧ (secondAdvance s).journal = s.journal ∧
    (secondAdvance s).holds = s.holds ∧ (secondAdvance s).notices = s.notices ∧ (secondAdvance s).scan = s.scan ∧
    (secondAdvance s).trailers = s.trailers ∧ (secondAdvance s).reports = s.reports ∧
    (secondAdvance s).memOut = s.memOut ∧ (secondAdvance s).ctlOut = s.ctlOut ∧ (secondAdvance s).free = s.free ∧
    (secondAdvance s).pending = s.pending := by
  unfold secondAdvance
  dsimp only
  (repeat' split) <;> simp

@[simp] theorem takeSecond_keeps (s : State) :
    (takeSecond s).resetN = s.resetN ∧ (takeSecond s).lrstN = s.lrstN ∧ (takeSecond s).part = s.part ∧
    (takeSecond s).decoder = s.decoder ∧ (takeSecond s).setup = s.setup ∧ (takeSecond s).start = s.start ∧
    (takeSecond s).traffic = s.traffic ∧ (takeSecond s).commit = s.commit ∧ (takeSecond s).offers = s.offers ∧
    (takeSecond s).seats = s.seats ∧ (takeSecond s).journal = s.journal ∧ (takeSecond s).holds = s.holds ∧
    (takeSecond s).notices = s.notices ∧ (takeSecond s).scan = s.scan ∧ (takeSecond s).trailers = s.trailers ∧
    (takeSecond s).reports = s.reports ∧ (takeSecond s).memOut = s.memOut ∧ (takeSecond s).ctlOut = s.ctlOut ∧
    (takeSecond s).free = s.free ∧ (takeSecond s).pending = s.pending := by
  unfold takeSecond
  dsimp only
  (repeat' split) <;> simp

@[simp] theorem moveTime_keeps (s : State) (v : LobbyTime) :
    (moveTime s v).resetN = s.resetN ∧ (moveTime s v).lrstN = s.lrstN ∧ (moveTime s v).part = s.part ∧
    (moveTime s v).decoder = s.decoder ∧ (moveTime s v).setup = s.setup ∧ (moveTime s v).start = s.start ∧
    (moveTime s v).traffic = s.traffic ∧ (moveTime s v).commit = s.commit ∧ (moveTime s v).offers = s.offers ∧
    (moveTime s v).seats = s.seats ∧ (moveTime s v).journal = s.journal ∧ (moveTime s v).holds = s.holds ∧
    (moveTime s v).notices = s.notices ∧ (moveTime s v).scan = s.scan ∧ (moveTime s v).trailers = s.trailers ∧
    (moveTime s v).memOut = s.memOut ∧ (moveTime s v).ctlOut = s.ctlOut ∧ (moveTime s v).free = s.free ∧
    (moveTime s v).pending = s.pending := by
  simp [moveTime]

@[simp] theorem setTime_keeps (s : State) (v : LobbyTime) :
    (setTime s v).resetN = s.resetN ∧ (setTime s v).lrstN = s.lrstN ∧ (setTime s v).part = s.part ∧
    (setTime s v).decoder = s.decoder ∧ (setTime s v).setup = s.setup ∧ (setTime s v).start = s.start ∧
    (setTime s v).traffic = s.traffic ∧ (setTime s v).commit = s.commit ∧ (setTime s v).offers = s.offers ∧
    (setTime s v).seats = s.seats ∧ (setTime s v).journal = s.journal ∧ (setTime s v).holds = s.holds ∧
    (setTime s v).notices = s.notices ∧ (setTime s v).scan = s.scan ∧ (setTime s v).trailers = s.trailers ∧
    (setTime s v).memOut = s.memOut ∧ (setTime s v).ctlOut = s.ctlOut ∧ (setTime s v).free = s.free ∧
    (setTime s v).pending = s.pending := by
  simp [setTime]

@[simp] theorem takePendingSet_keeps (s : State) :
    (takePendingSet s).resetN = s.resetN ∧ (takePendingSet s).lrstN = s.lrstN ∧ (takePendingSet s).part = s.part ∧
    (takePendingSet s).decoder = s.decoder ∧ (takePendingSet s).setup = s.setup ∧ (takePendingSet s).start = s.start ∧
    (takePendingSet s).traffic = s.traffic ∧ (takePendingSet s).commit = s.commit ∧
    (takePendingSet s).offers = s.offers ∧ (takePendingSet s).seats = s.seats ∧
    (takePendingSet s).journal = s.journal ∧ (takePendingSet s).holds = s.holds ∧
    (takePendingSet s).notices = s.notices ∧ (takePendingSet s).scan = s.scan ∧
    (takePendingSet s).trailers = s.trailers ∧ (takePendingSet s).memOut = s.memOut ∧
    (takePendingSet s).ctlOut = s.ctlOut ∧ (takePendingSet s).free = s.free ∧ (takePendingSet s).pending = s.pending := by
  unfold takePendingSet
  dsimp only
  (repeat' split) <;> simp

@[simp] theorem takeWithheld_keeps (n : Nat) (s : State) :
    (takeWithheld n s).resetN = s.resetN ∧ (takeWithheld n s).lrstN = s.lrstN ∧ (takeWithheld n s).part = s.part ∧
    (takeWithheld n s).decoder = s.decoder ∧ (takeWithheld n s).setup = s.setup ∧ (takeWithheld n s).start = s.start ∧
    (takeWithheld n s).traffic = s.traffic ∧ (takeWithheld n s).commit = s.commit ∧
    (takeWithheld n s).offers = s.offers ∧ (takeWithheld n s).seats = s.seats ∧
    (takeWithheld n s).journal = s.journal ∧ (takeWithheld n s).holds = s.holds ∧
    (takeWithheld n s).notices = s.notices ∧ (takeWithheld n s).scan = s.scan ∧
    (takeWithheld n s).trailers = s.trailers ∧ (takeWithheld n s).reports = s.reports ∧
    (takeWithheld n s).memOut = s.memOut ∧ (takeWithheld n s).ctlOut = s.ctlOut ∧ (takeWithheld n s).free = s.free ∧
    (takeWithheld n s).pending = s.pending := by
  induction n generalizing s with
  | zero => simp [takeWithheld]
  | succ n ih =>
    have h1 := ih (secondAdvance { s with clock := { s.clock with withheld := s.clock.withheld - 1 } })
    simpa [takeWithheld, State.active, State.rebuilding] using h1

@[simp] theorem commitRecord_keeps (s : State) (r : RecordId) (v : Byte) :
    (commitRecord s r v).resetN = s.resetN ∧ (commitRecord s r v).lrstN = s.lrstN ∧
    (commitRecord s r v).part = s.part ∧ (commitRecord s r v).decoder = s.decoder ∧
    (commitRecord s r v).setup = s.setup ∧ (commitRecord s r v).start = s.start ∧
    (commitRecord s r v).traffic = s.traffic ∧ (commitRecord s r v).offers = s.offers ∧
    (commitRecord s r v).seats = s.seats ∧ (commitRecord s r v).journal = s.journal ∧
    (commitRecord s r v).holds = s.holds ∧ (commitRecord s r v).clock = s.clock ∧ (commitRecord s r v).due = s.due ∧
    (commitRecord s r v).roster = s.roster ∧ (commitRecord s r v).painter = s.painter ∧
    (commitRecord s r v).notices = s.notices ∧ (commitRecord s r v).scan = s.scan ∧
    (commitRecord s r v).trailers = s.trailers ∧ (commitRecord s r v).reports = s.reports ∧
    (commitRecord s r v).memOut = s.memOut ∧ (commitRecord s r v).ctlOut = s.ctlOut ∧
    (commitRecord s r v).free = s.free ∧ (commitRecord s r v).pending = s.pending := by
  unfold commitRecord
  dsimp only
  (repeat' split) <;> simp

@[simp] theorem partialWrite_keeps (s : State) (a k : Nat) :
    (partialWrite s a k).resetN = s.resetN ∧ (partialWrite s a k).lrstN = s.lrstN ∧
    (partialWrite s a k).part = s.part ∧ (partialWrite s a k).decoder = s.decoder ∧
    (partialWrite s a k).setup = s.setup ∧ (partialWrite s a k).start = s.start ∧
    (partialWrite s a k).traffic = s.traffic ∧ (partialWrite s a k).commit = s.commit ∧
    (partialWrite s a k).offers = s.offers ∧ (partialWrite s a k).seats = s.seats ∧
    (partialWrite s a k).journal = s.journal ∧ (partialWrite s a k).holds = s.holds ∧
    (partialWrite s a k).clock = s.clock ∧ (partialWrite s a k).due = s.due ∧ (partialWrite s a k).roster = s.roster ∧
    (partialWrite s a k).painter = s.painter ∧ (partialWrite s a k).notices = s.notices ∧
    (partialWrite s a k).scan = s.scan ∧ (partialWrite s a k).trailers = s.trailers ∧
    (partialWrite s a k).memOut = s.memOut ∧ (partialWrite s a k).ctlOut = s.ctlOut ∧
    (partialWrite s a k).free = s.free ∧ (partialWrite s a k).pending = s.pending := by
  simp [partialWrite]

@[simp] theorem overflowWritten_keeps (s : State) (v : Byte) :
    (overflowWritten s v).resetN = s.resetN ∧ (overflowWritten s v).lrstN = s.lrstN ∧
    (overflowWritten s v).part = s.part ∧ (overflowWritten s v).decoder = s.decoder ∧
    (overflowWritten s v).setup = s.setup ∧ (overflowWritten s v).start = s.start ∧
    (overflowWritten s v).traffic = s.traffic ∧ (overflowWritten s v).commit = s.commit ∧
    (overflowWritten s v).offers = s.offers ∧ (overflowWritten s v).seats = s.seats ∧
    (overflowWritten s v).journal = s.journal ∧ (overflowWritten s v).holds = s.holds ∧
    (overflowWritten s v).clock = s.clock ∧ (overflowWritten s v).due = s.due ∧
    (overflowWritten s v).roster = s.roster ∧ (overflowWritten s v).painter = s.painter ∧
    (overflowWritten s v).notices = s.notices ∧ (overflowWritten s v).scan = s.scan ∧
    (overflowWritten s v).trailers = s.trailers ∧ (overflowWritten s v).memOut = s.memOut ∧
    (overflowWritten s v).ctlOut = s.ctlOut ∧ (overflowWritten s v).free = s.free ∧
    (overflowWritten s v).pending = s.pending := by
  unfold overflowWritten
  dsimp only
  (repeat' split) <;> simp

@[simp] theorem restartWritten_keeps (s : State) (v : Byte) :
    (restartWritten s v).resetN = s.resetN ∧ (restartWritten s v).lrstN = s.lrstN ∧
    (restartWritten s v).decoder = s.decoder ∧ (restartWritten s v).setup = s.setup ∧
    (restartWritten s v).offers = s.offers ∧ (restartWritten s v).seats = s.seats ∧
    (restartWritten s v).holds = s.holds ∧ (restartWritten s v).due = s.due ∧ (restartWritten s v).roster = s.roster ∧
    (restartWritten s v).painter = s.painter ∧ (restartWritten s v).notices = s.notices ∧
    (restartWritten s v).reports = s.reports ∧
    (restartWritten s v).memOut = s.memOut ∧ (restartWritten s v).ctlOut = s.ctlOut ∧
    (restartWritten s v).free = s.free ∧ (restartWritten s v).pending = s.pending := by
  unfold restartWritten
  dsimp only
  (repeat' split) <;> simp

@[simp] theorem timeSetWritten_keeps (s : State) (v : Byte) (x : Option (List Byte)) :
    (timeSetWritten s v x).resetN = s.resetN ∧ (timeSetWritten s v x).lrstN = s.lrstN ∧
    (timeSetWritten s v x).part = s.part ∧ (timeSetWritten s v x).decoder = s.decoder ∧
    (timeSetWritten s v x).setup = s.setup ∧ (timeSetWritten s v x).start = s.start ∧
    (timeSetWritten s v x).traffic = s.traffic ∧ (timeSetWritten s v x).offers = s.offers ∧
    (timeSetWritten s v x).seats = s.seats ∧ (timeSetWritten s v x).journal = s.journal ∧
    (timeSetWritten s v x).holds = s.holds ∧ (timeSetWritten s v x).notices = s.notices ∧
    (timeSetWritten s v x).scan = s.scan ∧ (timeSetWritten s v x).trailers = s.trailers ∧
    (timeSetWritten s v x).memOut = s.memOut ∧ (timeSetWritten s v x).ctlOut = s.ctlOut ∧
    (timeSetWritten s v x).free = s.free ∧ (timeSetWritten s v x).pending = s.pending := by
  unfold timeSetWritten
  dsimp only
  (repeat' split) <;> simp

@[simp] theorem tagWritten_keeps (s : State) (i : StreamIx) (k : FrameIx) (a : Nat) (x : Option (List Byte)) :
    (tagWritten s i k a x).resetN = s.resetN ∧ (tagWritten s i k a x).lrstN = s.lrstN ∧
    (tagWritten s i k a x).part = s.part ∧ (tagWritten s i k a x).decoder = s.decoder ∧
    (tagWritten s i k a x).setup = s.setup ∧ (tagWritten s i k a x).start = s.start ∧
    (tagWritten s i k a x).traffic = s.traffic ∧ (tagWritten s i k a x).offers = s.offers ∧
    (tagWritten s i k a x).seats = s.seats ∧ (tagWritten s i k a x).journal = s.journal ∧
    (tagWritten s i k a x).holds = s.holds ∧ (tagWritten s i k a x).clock = s.clock ∧
    (tagWritten s i k a x).due = s.due ∧ (tagWritten s i k a x).roster = s.roster ∧
    (tagWritten s i k a x).painter = s.painter ∧ (tagWritten s i k a x).notices = s.notices ∧
    (tagWritten s i k a x).scan = s.scan ∧ (tagWritten s i k a x).memOut = s.memOut ∧
    (tagWritten s i k a x).ctlOut = s.ctlOut ∧ (tagWritten s i k a x).free = s.free ∧
    (tagWritten s i k a x).pending = s.pending := by
  unfold tagWritten
  (repeat' split) <;> simp

@[simp] theorem takeItem_keeps (s : State) (x : CommitItem) :
    (takeItem s x).resetN = s.resetN ∧ (takeItem s x).lrstN = s.lrstN ∧ (takeItem s x).decoder = s.decoder ∧
    (takeItem s x).setup = s.setup ∧ (takeItem s x).offers = s.offers ∧ (takeItem s x).seats = s.seats ∧
    (takeItem s x).holds = s.holds ∧ (takeItem s x).notices = s.notices ∧ (takeItem s x).memOut = s.memOut ∧
    (takeItem s x).ctlOut = s.ctlOut ∧ (takeItem s x).free = s.free ∧ (takeItem s x).pending = s.pending := by
  unfold takeItem
  (repeat' split) <;> simp

@[simp] theorem takeItems_keeps (s : State) (xs : List CommitItem) :
    (takeItems s xs).resetN = s.resetN ∧ (takeItems s xs).lrstN = s.lrstN ∧ (takeItems s xs).decoder = s.decoder ∧
    (takeItems s xs).setup = s.setup ∧ (takeItems s xs).offers = s.offers ∧ (takeItems s xs).seats = s.seats ∧
    (takeItems s xs).holds = s.holds ∧ (takeItems s xs).notices = s.notices ∧ (takeItems s xs).memOut = s.memOut ∧
    (takeItems s xs).ctlOut = s.ctlOut ∧ (takeItems s xs).free = s.free ∧ (takeItems s xs).pending = s.pending := by
  unfold takeItems
  exact ⟨foldl_keeps State.resetN _ (by intros; simp) _ _, foldl_keeps State.lrstN _ (by intros; simp) _ _,
    foldl_keeps State.decoder _ (by intros; simp) _ _, foldl_keeps State.setup _ (by intros; simp) _ _,
    foldl_keeps State.offers _ (by intros; simp) _ _, foldl_keeps State.seats _ (by intros; simp) _ _,
    foldl_keeps State.holds _ (by intros; simp) _ _, foldl_keeps State.notices _ (by intros; simp) _ _,
    foldl_keeps State.memOut _ (by intros; simp) _ _, foldl_keeps State.ctlOut _ (by intros; simp) _ _,
    foldl_keeps State.free _ (by intros; simp) _ _, foldl_keeps State.pending _ (by intros; simp) _ _⟩

@[simp] theorem handRecord_keeps (s : State) (x : RecordId) (bs : List Byte) :
    (handRecord s x bs).resetN = s.resetN ∧ (handRecord s x bs).lrstN = s.lrstN ∧ (handRecord s x bs).part = s.part ∧
    (handRecord s x bs).decoder = s.decoder ∧ (handRecord s x bs).setup = s.setup ∧
    (handRecord s x bs).start = s.start ∧ (handRecord s x bs).traffic = s.traffic ∧
    (handRecord s x bs).offers = s.offers ∧ (handRecord s x bs).journal = s.journal ∧
    (handRecord s x bs).clock = s.clock ∧ (handRecord s x bs).scan = s.scan ∧ (handRecord s x bs).memOut = s.memOut ∧
    (handRecord s x bs).ctlOut = s.ctlOut ∧ (handRecord s x bs).pending = s.pending := by
  unfold handRecord
  (repeat' split) <;> simp

end Sys2Proof.Machine
end

