-- ==== Sys2Proof/Laws/Loads.lean ====
section
/-! SUPPORT. The Setup Block, the build and the entry to RUNNING. What each operation leaves unchanged, field by field; `simp` uses every one of these facts. -/

namespace Sys2Proof.Machine

@[simp] theorem takeValues_keeps (s : State) (bs : List Byte) :
    (takeValues s bs).resetN = s.resetN ∧ (takeValues s bs).lrstN = s.lrstN ∧ (takeValues s bs).part = s.part ∧
    (takeValues s bs).start = s.start ∧ (takeValues s bs).traffic = s.traffic ∧ (takeValues s bs).offers = s.offers ∧
    (takeValues s bs).seats = s.seats ∧ (takeValues s bs).journal = s.journal ∧ (takeValues s bs).holds = s.holds ∧
    (takeValues s bs).due = s.due ∧ (takeValues s bs).roster = s.roster ∧ (takeValues s bs).painter = s.painter ∧
    (takeValues s bs).notices = s.notices ∧ (takeValues s bs).scan = s.scan ∧ (takeValues s bs).reports = s.reports ∧
    (takeValues s bs).memOut = s.memOut ∧ (takeValues s bs).ctlOut = s.ctlOut ∧ (takeValues s bs).free = s.free ∧
    (takeValues s bs).pending = s.pending := by
  simp [takeValues]

@[simp] theorem refuseLoad_keeps (s : State) :
    (refuseLoad s).resetN = s.resetN ∧ (refuseLoad s).lrstN = s.lrstN ∧ (refuseLoad s).setup = s.setup ∧
    (refuseLoad s).offers = s.offers ∧ (refuseLoad s).seats = s.seats ∧ (refuseLoad s).holds = s.holds ∧
    (refuseLoad s).roster = s.roster ∧ (refuseLoad s).painter = s.painter ∧ (refuseLoad s).notices = s.notices ∧
    (refuseLoad s).trailers = s.trailers ∧ (refuseLoad s).memOut = s.memOut ∧ (refuseLoad s).ctlOut = s.ctlOut ∧
    (refuseLoad s).free = s.free ∧ (refuseLoad s).pending = s.pending := by
  simp [refuseLoad]

@[simp] theorem acceptLoad_keeps (s : State) (bs : List Byte) :
    (acceptLoad s bs).resetN = s.resetN ∧ (acceptLoad s bs).lrstN = s.lrstN ∧ (acceptLoad s bs).traffic = s.traffic ∧
    (acceptLoad s bs).offers = s.offers ∧ (acceptLoad s bs).seats = s.seats ∧ (acceptLoad s bs).journal = s.journal ∧
    (acceptLoad s bs).holds = s.holds ∧ (acceptLoad s bs).due = s.due ∧ (acceptLoad s bs).roster = s.roster ∧
    (acceptLoad s bs).painter = s.painter ∧ (acceptLoad s bs).notices = s.notices ∧ (acceptLoad s bs).scan = s.scan ∧
    (acceptLoad s bs).reports = s.reports ∧ (acceptLoad s bs).memOut = s.memOut ∧
    (acceptLoad s bs).ctlOut = s.ctlOut ∧ (acceptLoad s bs).free = s.free ∧ (acceptLoad s bs).pending = s.pending := by
  unfold acceptLoad
  dsimp only
  (repeat' split) <;> simp

@[simp] theorem setupReadDone_keeps (s : State) (k : Nat) (x : ReadResult) :
    (setupReadDone s k x).resetN = s.resetN ∧ (setupReadDone s k x).lrstN = s.lrstN ∧
    (setupReadDone s k x).offers = s.offers ∧ (setupReadDone s k x).seats = s.seats ∧
    (setupReadDone s k x).holds = s.holds ∧ (setupReadDone s k x).roster = s.roster ∧
    (setupReadDone s k x).painter = s.painter ∧ (setupReadDone s k x).notices = s.notices ∧
    (setupReadDone s k x).memOut = s.memOut ∧ (setupReadDone s k x).ctlOut = s.ctlOut ∧
    (setupReadDone s k x).free = s.free ∧ (setupReadDone s k x).pending = s.pending := by
  unfold setupReadDone
  dsimp only
  (repeat' split) <;> simp

@[simp] theorem clearOwners_keeps (s : State) :
    (clearOwners s).resetN = s.resetN ∧ (clearOwners s).lrstN = s.lrstN ∧ (clearOwners s).part = s.part ∧
    (clearOwners s).decoder = s.decoder ∧ (clearOwners s).setup = s.setup ∧ (clearOwners s).start = s.start ∧
    (clearOwners s).traffic = s.traffic ∧ (clearOwners s).offers = s.offers ∧ (clearOwners s).clock = s.clock ∧
    (clearOwners s).memOut = s.memOut ∧ (clearOwners s).ctlOut = s.ctlOut ∧ (clearOwners s).free = s.free ∧
    (clearOwners s).pending = s.pending := by
  simp [clearOwners]

@[simp] theorem reload_keeps (s : State) :
    (reload s).resetN = s.resetN ∧ (reload s).lrstN = s.lrstN ∧ (reload s).part = s.part ∧
    (reload s).traffic = s.traffic ∧ (reload s).offers = s.offers ∧ (reload s).memOut = s.memOut ∧
    (reload s).ctlOut = s.ctlOut ∧ (reload s).free = s.free ∧ (reload s).pending = s.pending := by
  unfold reload
  (repeat' split) <;> simp

@[simp] theorem cueAll_keeps (s : State) :
    (cueAll s).resetN = s.resetN ∧ (cueAll s).lrstN = s.lrstN ∧ (cueAll s).part = s.part ∧
    (cueAll s).decoder = s.decoder ∧ (cueAll s).setup = s.setup ∧ (cueAll s).start = s.start ∧
    (cueAll s).traffic = s.traffic ∧ (cueAll s).offers = s.offers ∧ (cueAll s).seats = s.seats ∧
    (cueAll s).journal = s.journal ∧ (cueAll s).holds = s.holds ∧ (cueAll s).clock = s.clock ∧
    (cueAll s).due = s.due ∧ (cueAll s).roster = s.roster ∧ (cueAll s).painter = s.painter ∧
    (cueAll s).notices = s.notices ∧ (cueAll s).scan = s.scan ∧ (cueAll s).memOut = s.memOut ∧
    (cueAll s).ctlOut = s.ctlOut ∧ (cueAll s).free = s.free ∧ (cueAll s).pending = s.pending := by
  exact ⟨foldl_keeps State.resetN _ (fun s a => by split <;> simp) _ _,
    foldl_keeps State.lrstN _ (fun s a => by split <;> simp) _ _,
    foldl_keeps State.part _ (fun s a => by split <;> simp) _ _,
    foldl_keeps State.decoder _ (fun s a => by split <;> simp) _ _,
    foldl_keeps State.setup _ (fun s a => by split <;> simp) _ _,
    foldl_keeps State.start _ (fun s a => by split <;> simp) _ _,
    foldl_keeps State.traffic _ (fun s a => by split <;> simp) _ _,
    foldl_keeps State.offers _ (fun s a => by split <;> simp) _ _,
    foldl_keeps State.seats _ (fun s a => by split <;> simp) _ _,
    foldl_keeps State.journal _ (fun s a => by split <;> simp) _ _,
    foldl_keeps State.holds _ (fun s a => by split <;> simp) _ _,
    foldl_keeps State.clock _ (fun s a => by split <;> simp) _ _,
    foldl_keeps State.due _ (fun s a => by split <;> simp) _ _,
    foldl_keeps State.roster _ (fun s a => by split <;> simp) _ _,
    foldl_keeps State.painter _ (fun s a => by split <;> simp) _ _,
    foldl_keeps State.notices _ (fun s a => by split <;> simp) _ _,
    foldl_keeps State.scan _ (fun s a => by split <;> simp) _ _,
    foldl_keeps State.memOut _ (fun s a => by split <;> simp) _ _,
    foldl_keeps State.ctlOut _ (fun s a => by split <;> simp) _ _,
    foldl_keeps State.free _ (fun s a => by split <;> simp) _ _,
    foldl_keeps State.pending _ (fun s a => by split <;> simp) _ _⟩

@[simp] theorem enterRunning_keeps (s : State) :
    (enterRunning s).resetN = s.resetN ∧ (enterRunning s).lrstN = s.lrstN ∧ (enterRunning s).decoder = s.decoder ∧
    (enterRunning s).setup = s.setup ∧ (enterRunning s).traffic = s.traffic ∧ (enterRunning s).offers = s.offers ∧
    (enterRunning s).seats = s.seats ∧ (enterRunning s).holds = s.holds ∧ (enterRunning s).notices = s.notices ∧
    (enterRunning s).scan = s.scan ∧ (enterRunning s).memOut = s.memOut ∧ (enterRunning s).ctlOut = s.ctlOut ∧
    (enterRunning s).free = s.free ∧ (enterRunning s).pending = s.pending := by
  simp [enterRunning]

@[simp] theorem markShowings_keeps (s : State) (xs : List ShowingIx) :
    (xs.foldl markShowing s).resetN = s.resetN ∧ (xs.foldl markShowing s).lrstN = s.lrstN ∧
    (xs.foldl markShowing s).part = s.part ∧ (xs.foldl markShowing s).decoder = s.decoder ∧
    (xs.foldl markShowing s).setup = s.setup ∧ (xs.foldl markShowing s).start = s.start ∧
    (xs.foldl markShowing s).traffic = s.traffic ∧ (xs.foldl markShowing s).offers = s.offers ∧
    (xs.foldl markShowing s).seats = s.seats ∧ (xs.foldl markShowing s).journal = s.journal ∧
    (xs.foldl markShowing s).holds = s.holds ∧ (xs.foldl markShowing s).clock = s.clock ∧
    (xs.foldl markShowing s).due = s.due ∧ (xs.foldl markShowing s).roster = s.roster ∧
    (xs.foldl markShowing s).painter = s.painter ∧ (xs.foldl markShowing s).notices = s.notices ∧
    (xs.foldl markShowing s).scan = s.scan ∧ (xs.foldl markShowing s).trailers = s.trailers ∧
    (xs.foldl markShowing s).reports = s.reports ∧ (xs.foldl markShowing s).memOut = s.memOut ∧
    (xs.foldl markShowing s).ctlOut = s.ctlOut ∧ (xs.foldl markShowing s).free = s.free ∧
    (xs.foldl markShowing s).pending = s.pending := by
  exact ⟨foldl_keeps State.resetN _ (by intros; simp) _ _, foldl_keeps State.lrstN _ (by intros; simp) _ _,
    foldl_keeps State.part _ (by intros; simp) _ _, foldl_keeps State.decoder _ (by intros; simp) _ _,
    foldl_keeps State.setup _ (by intros; simp) _ _, foldl_keeps State.start _ (by intros; simp) _ _,
    foldl_keeps State.traffic _ (by intros; simp) _ _, foldl_keeps State.offers _ (by intros; simp) _ _,
    foldl_keeps State.seats _ (by intros; simp) _ _, foldl_keeps State.journal _ (by intros; simp) _ _,
    foldl_keeps State.holds _ (by intros; simp) _ _, foldl_keeps State.clock _ (by intros; simp) _ _,
    foldl_keeps State.due _ (by intros; simp) _ _, foldl_keeps State.roster _ (by intros; simp) _ _,
    foldl_keeps State.painter _ (by intros; simp) _ _, foldl_keeps State.notices _ (by intros; simp) _ _,
    foldl_keeps State.scan _ (by intros; simp) _ _, foldl_keeps State.trailers _ (by intros; simp) _ _,
    foldl_keeps State.reports _ (by intros; simp) _ _, foldl_keeps State.memOut _ (by intros; simp) _ _,
    foldl_keeps State.ctlOut _ (by intros; simp) _ _, foldl_keeps State.free _ (by intros; simp) _ _,
    foldl_keeps State.pending _ (by intros; simp) _ _⟩

@[simp] theorem markStreams_keeps (s : State) (xs : List StreamIx) :
    (xs.foldl markStream s).resetN = s.resetN ∧ (xs.foldl markStream s).lrstN = s.lrstN ∧
    (xs.foldl markStream s).part = s.part ∧ (xs.foldl markStream s).decoder = s.decoder ∧
    (xs.foldl markStream s).setup = s.setup ∧ (xs.foldl markStream s).start = s.start ∧
    (xs.foldl markStream s).traffic = s.traffic ∧ (xs.foldl markStream s).offers = s.offers ∧
    (xs.foldl markStream s).seats = s.seats ∧ (xs.foldl markStream s).journal = s.journal ∧
    (xs.foldl markStream s).holds = s.holds ∧ (xs.foldl markStream s).clock = s.clock ∧
    (xs.foldl markStream s).due = s.due ∧ (xs.foldl markStream s).roster = s.roster ∧
    (xs.foldl markStream s).painter = s.painter ∧ (xs.foldl markStream s).notices = s.notices ∧
    (xs.foldl markStream s).scan = s.scan ∧ (xs.foldl markStream s).trailers = s.trailers ∧
    (xs.foldl markStream s).reports = s.reports ∧ (xs.foldl markStream s).memOut = s.memOut ∧
    (xs.foldl markStream s).ctlOut = s.ctlOut ∧ (xs.foldl markStream s).free = s.free ∧
    (xs.foldl markStream s).pending = s.pending := by
  exact ⟨foldl_keeps State.resetN _ (by intros; simp) _ _, foldl_keeps State.lrstN _ (by intros; simp) _ _,
    foldl_keeps State.part _ (by intros; simp) _ _, foldl_keeps State.decoder _ (by intros; simp) _ _,
    foldl_keeps State.setup _ (by intros; simp) _ _, foldl_keeps State.start _ (by intros; simp) _ _,
    foldl_keeps State.traffic _ (by intros; simp) _ _, foldl_keeps State.offers _ (by intros; simp) _ _,
    foldl_keeps State.seats _ (by intros; simp) _ _, foldl_keeps State.journal _ (by intros; simp) _ _,
    foldl_keeps State.holds _ (by intros; simp) _ _, foldl_keeps State.clock _ (by intros; simp) _ _,
    foldl_keeps State.due _ (by intros; simp) _ _, foldl_keeps State.roster _ (by intros; simp) _ _,
    foldl_keeps State.painter _ (by intros; simp) _ _, foldl_keeps State.notices _ (by intros; simp) _ _,
    foldl_keeps State.scan _ (by intros; simp) _ _, foldl_keeps State.trailers _ (by intros; simp) _ _,
    foldl_keeps State.reports _ (by intros; simp) _ _, foldl_keeps State.memOut _ (by intros; simp) _ _,
    foldl_keeps State.ctlOut _ (by intros; simp) _ _, foldl_keeps State.free _ (by intros; simp) _ _,
    foldl_keeps State.pending _ (by intros; simp) _ _⟩

@[simp] theorem markAll_keeps (s : State) :
    (markAll s).resetN = s.resetN ∧ (markAll s).lrstN = s.lrstN ∧ (markAll s).part = s.part ∧
    (markAll s).decoder = s.decoder ∧ (markAll s).setup = s.setup ∧ (markAll s).start = s.start ∧
    (markAll s).traffic = s.traffic ∧ (markAll s).offers = s.offers ∧ (markAll s).seats = s.seats ∧
    (markAll s).journal = s.journal ∧ (markAll s).holds = s.holds ∧ (markAll s).clock = s.clock ∧
    (markAll s).due = s.due ∧ (markAll s).roster = s.roster ∧ (markAll s).painter = s.painter ∧
    (markAll s).notices = s.notices ∧ (markAll s).scan = s.scan ∧ (markAll s).trailers = s.trailers ∧
    (markAll s).memOut = s.memOut ∧ (markAll s).ctlOut = s.ctlOut ∧ (markAll s).free = s.free ∧
    (markAll s).pending = s.pending := by
  simp [markAll]

@[simp] theorem buildShowingAt_keeps (s : State) (i : ShowingIx) (x : Option (List Byte)) :
    (buildShowingAt s i x).resetN = s.resetN ∧ (buildShowingAt s i x).lrstN = s.lrstN ∧
    (buildShowingAt s i x).part = s.part ∧ (buildShowingAt s i x).decoder = s.decoder ∧
    (buildShowingAt s i x).setup = s.setup ∧ (buildShowingAt s i x).start = s.start ∧
    (buildShowingAt s i x).traffic = s.traffic ∧ (buildShowingAt s i x).offers = s.offers ∧
    (buildShowingAt s i x).journal = s.journal ∧ (buildShowingAt s i x).clock = s.clock ∧
    (buildShowingAt s i x).roster = s.roster ∧ (buildShowingAt s i x).painter = s.painter ∧
    (buildShowingAt s i x).notices = s.notices ∧ (buildShowingAt s i x).scan = s.scan ∧
    (buildShowingAt s i x).trailers = s.trailers ∧ (buildShowingAt s i x).memOut = s.memOut ∧
    (buildShowingAt s i x).ctlOut = s.ctlOut ∧ (buildShowingAt s i x).free = s.free ∧
    (buildShowingAt s i x).pending = s.pending := by
  unfold buildShowingAt
  (repeat' split) <;> simp

@[simp] theorem buildTitleAt_keeps (s : State) (i : TitleIx) (x : Option (List Byte)) :
    (buildTitleAt s i x).resetN = s.resetN ∧ (buildTitleAt s i x).lrstN = s.lrstN ∧
    (buildTitleAt s i x).part = s.part ∧ (buildTitleAt s i x).decoder = s.decoder ∧
    (buildTitleAt s i x).setup = s.setup ∧ (buildTitleAt s i x).start = s.start ∧
    (buildTitleAt s i x).traffic = s.traffic ∧ (buildTitleAt s i x).offers = s.offers ∧
    (buildTitleAt s i x).seats = s.seats ∧ (buildTitleAt s i x).journal = s.journal ∧
    (buildTitleAt s i x).holds = s.holds ∧ (buildTitleAt s i x).clock = s.clock ∧ (buildTitleAt s i x).due = s.due ∧
    (buildTitleAt s i x).painter = s.painter ∧ (buildTitleAt s i x).notices = s.notices ∧
    (buildTitleAt s i x).scan = s.scan ∧ (buildTitleAt s i x).trailers = s.trailers ∧
    (buildTitleAt s i x).reports = s.reports ∧ (buildTitleAt s i x).memOut = s.memOut ∧
    (buildTitleAt s i x).ctlOut = s.ctlOut ∧ (buildTitleAt s i x).free = s.free ∧
    (buildTitleAt s i x).pending = s.pending := by
  unfold buildTitleAt
  (repeat' split) <;> simp

@[simp] theorem buildNoticeAt_keeps (s : State) (i : NoticeIx) (x : Option (List Byte)) :
    (buildNoticeAt s i x).resetN = s.resetN ∧ (buildNoticeAt s i x).lrstN = s.lrstN ∧
    (buildNoticeAt s i x).part = s.part ∧ (buildNoticeAt s i x).decoder = s.decoder ∧
    (buildNoticeAt s i x).setup = s.setup ∧ (buildNoticeAt s i x).traffic = s.traffic ∧
    (buildNoticeAt s i x).offers = s.offers ∧ (buildNoticeAt s i x).seats = s.seats ∧
    (buildNoticeAt s i x).journal = s.journal ∧ (buildNoticeAt s i x).holds = s.holds ∧
    (buildNoticeAt s i x).clock = s.clock ∧ (buildNoticeAt s i x).roster = s.roster ∧
    (buildNoticeAt s i x).painter = s.painter ∧ (buildNoticeAt s i x).scan = s.scan ∧
    (buildNoticeAt s i x).trailers = s.trailers ∧ (buildNoticeAt s i x).memOut = s.memOut ∧
    (buildNoticeAt s i x).ctlOut = s.ctlOut ∧ (buildNoticeAt s i x).free = s.free ∧
    (buildNoticeAt s i x).pending = s.pending := by
  unfold buildNoticeAt
  (repeat' split) <;> simp

@[simp] theorem buildCatalogAt_keeps (s : State) (i : CatalogIx) (x : Option (List Byte)) :
    (buildCatalogAt s i x).resetN = s.resetN ∧ (buildCatalogAt s i x).lrstN = s.lrstN ∧
    (buildCatalogAt s i x).part = s.part ∧ (buildCatalogAt s i x).decoder = s.decoder ∧
    (buildCatalogAt s i x).setup = s.setup ∧ (buildCatalogAt s i x).start = s.start ∧
    (buildCatalogAt s i x).traffic = s.traffic ∧ (buildCatalogAt s i x).offers = s.offers ∧
    (buildCatalogAt s i x).seats = s.seats ∧ (buildCatalogAt s i x).journal = s.journal ∧
    (buildCatalogAt s i x).holds = s.holds ∧ (buildCatalogAt s i x).clock = s.clock ∧
    (buildCatalogAt s i x).due = s.due ∧ (buildCatalogAt s i x).roster = s.roster ∧
    (buildCatalogAt s i x).painter = s.painter ∧ (buildCatalogAt s i x).notices = s.notices ∧
    (buildCatalogAt s i x).scan = s.scan ∧ (buildCatalogAt s i x).memOut = s.memOut ∧
    (buildCatalogAt s i x).ctlOut = s.ctlOut ∧ (buildCatalogAt s i x).free = s.free ∧
    (buildCatalogAt s i x).pending = s.pending := by
  unfold buildCatalogAt
  (repeat' split) <;> simp

@[simp] theorem buildRotationAt_keeps (s : State) (i : StreamIx) (x : Option (List Byte)) :
    (buildRotationAt s i x).resetN = s.resetN ∧ (buildRotationAt s i x).lrstN = s.lrstN ∧
    (buildRotationAt s i x).part = s.part ∧ (buildRotationAt s i x).decoder = s.decoder ∧
    (buildRotationAt s i x).setup = s.setup ∧ (buildRotationAt s i x).start = s.start ∧
    (buildRotationAt s i x).traffic = s.traffic ∧ (buildRotationAt s i x).offers = s.offers ∧
    (buildRotationAt s i x).seats = s.seats ∧ (buildRotationAt s i x).journal = s.journal ∧
    (buildRotationAt s i x).holds = s.holds ∧ (buildRotationAt s i x).clock = s.clock ∧
    (buildRotationAt s i x).due = s.due ∧ (buildRotationAt s i x).roster = s.roster ∧
    (buildRotationAt s i x).painter = s.painter ∧ (buildRotationAt s i x).notices = s.notices ∧
    (buildRotationAt s i x).scan = s.scan ∧ (buildRotationAt s i x).reports = s.reports ∧
    (buildRotationAt s i x).memOut = s.memOut ∧ (buildRotationAt s i x).ctlOut = s.ctlOut ∧
    (buildRotationAt s i x).free = s.free ∧ (buildRotationAt s i x).pending = s.pending := by
  unfold buildRotationAt
  (repeat' split) <;> simp

@[simp] theorem buildLayoutAt_keeps (s : State) (i : PanelIx) (x : Option (List Byte)) :
    (buildLayoutAt s i x).resetN = s.resetN ∧ (buildLayoutAt s i x).lrstN = s.lrstN ∧
    (buildLayoutAt s i x).part = s.part ∧ (buildLayoutAt s i x).decoder = s.decoder ∧
    (buildLayoutAt s i x).setup = s.setup ∧ (buildLayoutAt s i x).start = s.start ∧
    (buildLayoutAt s i x).traffic = s.traffic ∧ (buildLayoutAt s i x).offers = s.offers ∧
    (buildLayoutAt s i x).seats = s.seats ∧ (buildLayoutAt s i x).journal = s.journal ∧
    (buildLayoutAt s i x).holds = s.holds ∧ (buildLayoutAt s i x).clock = s.clock ∧
    (buildLayoutAt s i x).due = s.due ∧ (buildLayoutAt s i x).notices = s.notices ∧
    (buildLayoutAt s i x).scan = s.scan ∧ (buildLayoutAt s i x).trailers = s.trailers ∧
    (buildLayoutAt s i x).memOut = s.memOut ∧ (buildLayoutAt s i x).ctlOut = s.ctlOut ∧
    (buildLayoutAt s i x).pending = s.pending := by
  unfold buildLayoutAt
  (repeat' split) <;> simp

@[simp] theorem buildHeader_keeps (s : State) (bs : List Byte) :
    (buildHeader s bs).resetN = s.resetN ∧ (buildHeader s bs).lrstN = s.lrstN ∧ (buildHeader s bs).part = s.part ∧
    (buildHeader s bs).decoder = s.decoder ∧ (buildHeader s bs).setup = s.setup ∧ (buildHeader s bs).start = s.start ∧
    (buildHeader s bs).traffic = s.traffic ∧ (buildHeader s bs).commit = s.commit ∧
    (buildHeader s bs).offers = s.offers ∧ (buildHeader s bs).seats = s.seats ∧ (buildHeader s bs).holds = s.holds ∧
    (buildHeader s bs).clock = s.clock ∧ (buildHeader s bs).due = s.due ∧ (buildHeader s bs).roster = s.roster ∧
    (buildHeader s bs).painter = s.painter ∧ (buildHeader s bs).notices = s.notices ∧
    (buildHeader s bs).scan = s.scan ∧ (buildHeader s bs).trailers = s.trailers ∧
    (buildHeader s bs).memOut = s.memOut ∧ (buildHeader s bs).ctlOut = s.ctlOut ∧
    (buildHeader s bs).pending = s.pending := by
  unfold buildHeader
  (repeat' split) <;> simp

@[simp] theorem buildMark_keeps (s : State) (i : JournalIx) (n : Nat) :
    (buildMark s i n).resetN = s.resetN ∧ (buildMark s i n).lrstN = s.lrstN ∧ (buildMark s i n).part = s.part ∧
    (buildMark s i n).decoder = s.decoder ∧ (buildMark s i n).setup = s.setup ∧ (buildMark s i n).start = s.start ∧
    (buildMark s i n).traffic = s.traffic ∧ (buildMark s i n).commit = s.commit ∧
    (buildMark s i n).offers = s.offers ∧ (buildMark s i n).seats = s.seats ∧ (buildMark s i n).holds = s.holds ∧
    (buildMark s i n).clock = s.clock ∧ (buildMark s i n).due = s.due ∧ (buildMark s i n).roster = s.roster ∧
    (buildMark s i n).painter = s.painter ∧ (buildMark s i n).notices = s.notices ∧ (buildMark s i n).scan = s.scan ∧
    (buildMark s i n).trailers = s.trailers ∧ (buildMark s i n).reports = s.reports ∧
    (buildMark s i n).memOut = s.memOut ∧ (buildMark s i n).ctlOut = s.ctlOut ∧ (buildMark s i n).free = s.free ∧
    (buildMark s i n).pending = s.pending := by
  unfold buildMark
  dsimp only
  (repeat' split) <;> simp

@[simp] theorem buildMarks_keeps (s : State) (k : Nat) (bs : List Byte) :
    (buildMarks s k bs).resetN = s.resetN ∧ (buildMarks s k bs).lrstN = s.lrstN ∧ (buildMarks s k bs).part = s.part ∧
    (buildMarks s k bs).decoder = s.decoder ∧ (buildMarks s k bs).setup = s.setup ∧
    (buildMarks s k bs).start = s.start ∧ (buildMarks s k bs).traffic = s.traffic ∧
    (buildMarks s k bs).commit = s.commit ∧ (buildMarks s k bs).offers = s.offers ∧
    (buildMarks s k bs).seats = s.seats ∧ (buildMarks s k bs).holds = s.holds ∧ (buildMarks s k bs).clock = s.clock ∧
    (buildMarks s k bs).due = s.due ∧ (buildMarks s k bs).roster = s.roster ∧
    (buildMarks s k bs).painter = s.painter ∧ (buildMarks s k bs).notices = s.notices ∧
    (buildMarks s k bs).scan = s.scan ∧ (buildMarks s k bs).trailers = s.trailers ∧
    (buildMarks s k bs).reports = s.reports ∧ (buildMarks s k bs).memOut = s.memOut ∧
    (buildMarks s k bs).ctlOut = s.ctlOut ∧ (buildMarks s k bs).free = s.free ∧
    (buildMarks s k bs).pending = s.pending := by
  exact ⟨foldl_keeps State.resetN _ (fun s a => by split <;> simp) _ _,
    foldl_keeps State.lrstN _ (fun s a => by split <;> simp) _ _,
    foldl_keeps State.part _ (fun s a => by split <;> simp) _ _,
    foldl_keeps State.decoder _ (fun s a => by split <;> simp) _ _,
    foldl_keeps State.setup _ (fun s a => by split <;> simp) _ _,
    foldl_keeps State.start _ (fun s a => by split <;> simp) _ _,
    foldl_keeps State.traffic _ (fun s a => by split <;> simp) _ _,
    foldl_keeps State.commit _ (fun s a => by split <;> simp) _ _,
    foldl_keeps State.offers _ (fun s a => by split <;> simp) _ _,
    foldl_keeps State.seats _ (fun s a => by split <;> simp) _ _,
    foldl_keeps State.holds _ (fun s a => by split <;> simp) _ _,
    foldl_keeps State.clock _ (fun s a => by split <;> simp) _ _,
    foldl_keeps State.due _ (fun s a => by split <;> simp) _ _,
    foldl_keeps State.roster _ (fun s a => by split <;> simp) _ _,
    foldl_keeps State.painter _ (fun s a => by split <;> simp) _ _,
    foldl_keeps State.notices _ (fun s a => by split <;> simp) _ _,
    foldl_keeps State.scan _ (fun s a => by split <;> simp) _ _,
    foldl_keeps State.trailers _ (fun s a => by split <;> simp) _ _,
    foldl_keeps State.reports _ (fun s a => by split <;> simp) _ _,
    foldl_keeps State.memOut _ (fun s a => by split <;> simp) _ _,
    foldl_keeps State.ctlOut _ (fun s a => by split <;> simp) _ _,
    foldl_keeps State.free _ (fun s a => by split <;> simp) _ _,
    foldl_keeps State.pending _ (fun s a => by split <;> simp) _ _⟩

@[simp] theorem buildJournal_keeps (s : State) (k : Nat) (x : ReadResult) :
    (buildJournal s k x).resetN = s.resetN ∧ (buildJournal s k x).lrstN = s.lrstN ∧
    (buildJournal s k x).part = s.part ∧ (buildJournal s k x).decoder = s.decoder ∧
    (buildJournal s k x).setup = s.setup ∧ (buildJournal s k x).start = s.start ∧
    (buildJournal s k x).traffic = s.traffic ∧ (buildJournal s k x).commit = s.commit ∧
    (buildJournal s k x).offers = s.offers ∧ (buildJournal s k x).seats = s.seats ∧
    (buildJournal s k x).holds = s.holds ∧ (buildJournal s k x).clock = s.clock ∧ (buildJournal s k x).due = s.due ∧
    (buildJournal s k x).roster = s.roster ∧ (buildJournal s k x).painter = s.painter ∧
    (buildJournal s k x).notices = s.notices ∧ (buildJournal s k x).scan = s.scan ∧
    (buildJournal s k x).trailers = s.trailers ∧ (buildJournal s k x).memOut = s.memOut ∧
    (buildJournal s k x).ctlOut = s.ctlOut ∧ (buildJournal s k x).pending = s.pending := by
  unfold buildJournal
  (repeat' split) <;> simp

@[simp] theorem buildLayouts_keeps (s : State) (k : Nat) (x : ReadResult) :
    (buildLayouts s k x).resetN = s.resetN ∧ (buildLayouts s k x).lrstN = s.lrstN ∧
    (buildLayouts s k x).part = s.part ∧ (buildLayouts s k x).decoder = s.decoder ∧
    (buildLayouts s k x).setup = s.setup ∧ (buildLayouts s k x).traffic = s.traffic ∧
    (buildLayouts s k x).offers = s.offers ∧ (buildLayouts s k x).seats = s.seats ∧
    (buildLayouts s k x).journal = s.journal ∧ (buildLayouts s k x).holds = s.holds ∧
    (buildLayouts s k x).clock = s.clock ∧ (buildLayouts s k x).due = s.due ∧
    (buildLayouts s k x).notices = s.notices ∧ (buildLayouts s k x).scan = s.scan ∧
    (buildLayouts s k x).trailers = s.trailers ∧ (buildLayouts s k x).memOut = s.memOut ∧
    (buildLayouts s k x).ctlOut = s.ctlOut ∧ (buildLayouts s k x).pending = s.pending := by
  unfold buildLayouts
  dsimp only
  (repeat' split) <;> simp

theorem buildBlock_keeps {γ : Type} (g : State → γ) (f : State → Nat → Option (List Byte) → State)
    (h : ∀ s j x, g (f s j x) = g s) (s : State) (n c : Nat) (x : ReadResult) : g (buildBlock s n c x f) = g s :=
  foldl_keeps g _ (fun s j => h s j _) _ _

@[simp] theorem buildNotices_keeps (s : State) (k : Nat) (x : ReadResult) :
    (buildNotices s k x).resetN = s.resetN ∧ (buildNotices s k x).lrstN = s.lrstN ∧
    (buildNotices s k x).part = s.part ∧ (buildNotices s k x).decoder = s.decoder ∧
    (buildNotices s k x).setup = s.setup ∧ (buildNotices s k x).traffic = s.traffic ∧
    (buildNotices s k x).offers = s.offers ∧ (buildNotices s k x).seats = s.seats ∧
    (buildNotices s k x).journal = s.journal ∧ (buildNotices s k x).holds = s.holds ∧
    (buildNotices s k x).clock = s.clock ∧ (buildNotices s k x).scan = s.scan ∧
    (buildNotices s k x).trailers = s.trailers ∧ (buildNotices s k x).memOut = s.memOut ∧
    (buildNotices s k x).ctlOut = s.ctlOut ∧ (buildNotices s k x).free = s.free ∧
    (buildNotices s k x).pending = s.pending := by
  unfold buildNotices
  dsimp only
  exact ⟨by split <;> simp [buildBlock_keeps State.resetN], by split <;> simp [buildBlock_keeps State.lrstN],
    by split <;> simp [buildBlock_keeps State.part], by split <;> simp [buildBlock_keeps State.decoder],
    by split <;> simp [buildBlock_keeps State.setup], by split <;> simp [buildBlock_keeps State.traffic],
    by split <;> simp [buildBlock_keeps State.offers], by split <;> simp [buildBlock_keeps State.seats],
    by split <;> simp [buildBlock_keeps State.journal], by split <;> simp [buildBlock_keeps State.holds],
    by split <;> simp [buildBlock_keeps State.clock], by split <;> simp [buildBlock_keeps State.scan],
    by split <;> simp [buildBlock_keeps State.trailers], by split <;> simp [buildBlock_keeps State.memOut],
    by split <;> simp [buildBlock_keeps State.ctlOut], by split <;> simp [buildBlock_keeps State.free],
    by split <;> simp [buildBlock_keeps State.pending]⟩

@[simp] theorem buildRead_keeps (s : State) (b : BuildItem) (x : ReadResult) :
    (buildRead s b x).resetN = s.resetN ∧ (buildRead s b x).lrstN = s.lrstN ∧ (buildRead s b x).part = s.part ∧
    (buildRead s b x).decoder = s.decoder ∧ (buildRead s b x).setup = s.setup ∧
    (buildRead s b x).traffic = s.traffic ∧ (buildRead s b x).offers = s.offers ∧ (buildRead s b x).clock = s.clock ∧
    (buildRead s b x).scan = s.scan ∧ (buildRead s b x).memOut = s.memOut ∧ (buildRead s b x).ctlOut = s.ctlOut ∧
    (buildRead s b x).pending = s.pending := by
  exact ⟨by cases b <;> simp [buildRead, buildBlock_keeps State.resetN],
    by cases b <;> simp [buildRead, buildBlock_keeps State.lrstN],
    by cases b <;> simp [buildRead, buildBlock_keeps State.part],
    by cases b <;> simp [buildRead, buildBlock_keeps State.decoder],
    by cases b <;> simp [buildRead, buildBlock_keeps State.setup],
    by cases b <;> simp [buildRead, buildBlock_keeps State.traffic],
    by cases b <;> simp [buildRead, buildBlock_keeps State.offers],
    by cases b <;> simp [buildRead, buildBlock_keeps State.clock],
    by cases b <;> simp [buildRead, buildBlock_keeps State.scan],
    by cases b <;> simp [buildRead, buildBlock_keeps State.memOut],
    by cases b <;> simp [buildRead, buildBlock_keeps State.ctlOut],
    by cases b <;> simp [buildRead, buildBlock_keeps State.pending]⟩

@[simp] theorem buildDrain_keeps (n : Nat) (s : State) :
    (buildDrain n s).resetN = s.resetN ∧ (buildDrain n s).lrstN = s.lrstN ∧ (buildDrain n s).part = s.part ∧
    (buildDrain n s).decoder = s.decoder ∧ (buildDrain n s).setup = s.setup ∧ (buildDrain n s).traffic = s.traffic ∧
    (buildDrain n s).offers = s.offers ∧ (buildDrain n s).clock = s.clock ∧ (buildDrain n s).scan = s.scan ∧
    (buildDrain n s).memOut = s.memOut ∧ (buildDrain n s).ctlOut = s.ctlOut ∧ (buildDrain n s).pending = s.pending := by
  have h : ∀ {γ : Type} (g : State → γ), (∀ s t, buildNext s = some t → g t = g s) → ∀ n s, g (buildDrain n s) = g s := by
    intro γ g h1 n
    induction n with
    | zero => intro s; rfl
    | succ n ih =>
      intro s
      simp only [buildDrain]
      split
      · next t ht => rw [ih, h1 s t ht]
      · rfl
  have hn : ∀ s t, buildNext s = some t → ∃ d l b x, t = buildRead { s with start := { s.start with
      buildDone := d, buildGot := l } } b x := by
    intro s t ht
    unfold buildNext at ht
    split at ht
    · next x b _ _ => cases ht; exact ⟨_, _, _, _, rfl⟩
    · cases ht
  exact ⟨h State.resetN (fun s t ht => by obtain ⟨d, l, b, x, rfl⟩ := hn s t ht; simp) n s,
    h State.lrstN (fun s t ht => by obtain ⟨d, l, b, x, rfl⟩ := hn s t ht; simp) n s,
    h State.part (fun s t ht => by obtain ⟨d, l, b, x, rfl⟩ := hn s t ht; simp) n s,
    h State.decoder (fun s t ht => by obtain ⟨d, l, b, x, rfl⟩ := hn s t ht; simp) n s,
    h State.setup (fun s t ht => by obtain ⟨d, l, b, x, rfl⟩ := hn s t ht; simp) n s,
    h State.traffic (fun s t ht => by obtain ⟨d, l, b, x, rfl⟩ := hn s t ht; simp) n s,
    h State.offers (fun s t ht => by obtain ⟨d, l, b, x, rfl⟩ := hn s t ht; simp) n s,
    h State.clock (fun s t ht => by obtain ⟨d, l, b, x, rfl⟩ := hn s t ht; simp) n s,
    h State.scan (fun s t ht => by obtain ⟨d, l, b, x, rfl⟩ := hn s t ht; simp) n s,
    h State.memOut (fun s t ht => by obtain ⟨d, l, b, x, rfl⟩ := hn s t ht; simp) n s,
    h State.ctlOut (fun s t ht => by obtain ⟨d, l, b, x, rfl⟩ := hn s t ht; simp) n s,
    h State.pending (fun s t ht => by obtain ⟨d, l, b, x, rfl⟩ := hn s t ht; simp) n s⟩

@[simp] theorem buildReadDone_keeps (s : State) (k : Nat) (x : ReadResult) :
    (buildReadDone s k x).resetN = s.resetN ∧ (buildReadDone s k x).lrstN = s.lrstN ∧
    (buildReadDone s k x).decoder = s.decoder ∧ (buildReadDone s k x).setup = s.setup ∧
    (buildReadDone s k x).traffic = s.traffic ∧ (buildReadDone s k x).offers = s.offers ∧
    (buildReadDone s k x).scan = s.scan ∧ (buildReadDone s k x).memOut = s.memOut ∧
    (buildReadDone s k x).ctlOut = s.ctlOut ∧ (buildReadDone s k x).pending = s.pending := by
  unfold buildReadDone
  dsimp only
  (repeat' split) <;> simp

end Sys2Proof.Machine
end

