-- ==== Sys2Proof/Laws/Answers.lean ====
section
/-! SUPPORT. The answers to own requests, the issue of requests, and the responses to controller requests. What each operation leaves unchanged, field by field; `simp` uses every one of these facts. -/

namespace Sys2Proof.Machine

@[simp] theorem fetchOk_keeps (s : State) (r : RecordId) (bs : List Byte) :
    (fetchOk s r bs).resetN = s.resetN ∧ (fetchOk s r bs).lrstN = s.lrstN ∧ (fetchOk s r bs).part = s.part ∧
    (fetchOk s r bs).decoder = s.decoder ∧ (fetchOk s r bs).setup = s.setup ∧ (fetchOk s r bs).start = s.start ∧
    (fetchOk s r bs).traffic = s.traffic ∧ (fetchOk s r bs).offers = s.offers ∧ (fetchOk s r bs).journal = s.journal ∧
    (fetchOk s r bs).clock = s.clock ∧ (fetchOk s r bs).scan = s.scan ∧ (fetchOk s r bs).memOut = s.memOut ∧
    (fetchOk s r bs).ctlOut = s.ctlOut ∧ (fetchOk s r bs).pending = s.pending := by
  unfold fetchOk
  (repeat' split) <;> simp

@[simp] theorem fetchFault_keeps (s : State) (r : RecordId) (k : Nat) :
    (fetchFault s r k).resetN = s.resetN ∧ (fetchFault s r k).lrstN = s.lrstN ∧
    (fetchFault s r k).decoder = s.decoder ∧ (fetchFault s r k).setup = s.setup ∧ (fetchFault s r k).start = s.start ∧
    (fetchFault s r k).offers = s.offers ∧ (fetchFault s r k).seats = s.seats ∧ (fetchFault s r k).holds = s.holds ∧
    (fetchFault s r k).clock = s.clock ∧ (fetchFault s r k).roster = s.roster ∧
    (fetchFault s r k).notices = s.notices ∧ (fetchFault s r k).trailers = s.trailers ∧
    (fetchFault s r k).memOut = s.memOut ∧ (fetchFault s r k).ctlOut = s.ctlOut ∧ (fetchFault s r k).free = s.free ∧
    (fetchFault s r k).pending = s.pending := by
  unfold fetchFault
  dsimp only
  (repeat' split) <;> simp

@[simp] theorem endFetch_keeps (s : State) (f : Fetch) :
    (endFetch s f).resetN = s.resetN ∧ (endFetch s f).lrstN = s.lrstN ∧ (endFetch s f).decoder = s.decoder ∧
    (endFetch s f).setup = s.setup ∧ (endFetch s f).start = s.start ∧ (endFetch s f).offers = s.offers ∧
    (endFetch s f).clock = s.clock ∧ (endFetch s f).memOut = s.memOut ∧ (endFetch s f).ctlOut = s.ctlOut ∧
    (endFetch s f).pending = s.pending := by
  unfold endFetch
  dsimp only
  (repeat' split) <;> simp

@[simp] theorem commitFetchDone_keeps (s : State) (r : RecordId) (k : Nat) (x : ReadResult) :
    (commitFetchDone s r k x).resetN = s.resetN ∧ (commitFetchDone s r k x).lrstN = s.lrstN ∧
    (commitFetchDone s r k x).decoder = s.decoder ∧ (commitFetchDone s r k x).setup = s.setup ∧
    (commitFetchDone s r k x).start = s.start ∧ (commitFetchDone s r k x).offers = s.offers ∧
    (commitFetchDone s r k x).clock = s.clock ∧ (commitFetchDone s r k x).memOut = s.memOut ∧
    (commitFetchDone s r k x).ctlOut = s.ctlOut ∧ (commitFetchDone s r k x).pending = s.pending := by
  unfold commitFetchDone
  dsimp only
  (repeat' split) <;> simp

@[simp] theorem journalFetchDone_keeps (s : State) (a : BitVec 32) (x : ReadResult) :
    (journalFetchDone s a x).resetN = s.resetN ∧ (journalFetchDone s a x).lrstN = s.lrstN ∧
    (journalFetchDone s a x).decoder = s.decoder ∧ (journalFetchDone s a x).setup = s.setup ∧
    (journalFetchDone s a x).start = s.start ∧ (journalFetchDone s a x).offers = s.offers ∧
    (journalFetchDone s a x).clock = s.clock ∧ (journalFetchDone s a x).notices = s.notices ∧
    (journalFetchDone s a x).trailers = s.trailers ∧ (journalFetchDone s a x).memOut = s.memOut ∧
    (journalFetchDone s a x).ctlOut = s.ctlOut ∧ (journalFetchDone s a x).pending = s.pending := by
  unfold journalFetchDone
  dsimp only
  (repeat' split) <;> simp

@[simp] theorem writeBackDone_keeps (s : State) (a : BitVec 32) (x : ReadResult) :
    (writeBackDone s a x).resetN = s.resetN ∧ (writeBackDone s a x).lrstN = s.lrstN ∧
    (writeBackDone s a x).decoder = s.decoder ∧ (writeBackDone s a x).setup = s.setup ∧
    (writeBackDone s a x).start = s.start ∧ (writeBackDone s a x).offers = s.offers ∧
    (writeBackDone s a x).seats = s.seats ∧ (writeBackDone s a x).holds = s.holds ∧
    (writeBackDone s a x).clock = s.clock ∧ (writeBackDone s a x).roster = s.roster ∧
    (writeBackDone s a x).notices = s.notices ∧ (writeBackDone s a x).trailers = s.trailers ∧
    (writeBackDone s a x).memOut = s.memOut ∧ (writeBackDone s a x).ctlOut = s.ctlOut ∧
    (writeBackDone s a x).free = s.free ∧ (writeBackDone s a x).pending = s.pending := by
  unfold writeBackDone
  (repeat' split) <;> simp

@[simp] theorem paintMemoryFault_keeps (s : State) (k : Fin 2) (a : BitVec 32) (w : Bool) :
    (paintMemoryFault s k a w).resetN = s.resetN ∧ (paintMemoryFault s k a w).lrstN = s.lrstN ∧
    (paintMemoryFault s k a w).decoder = s.decoder ∧ (paintMemoryFault s k a w).setup = s.setup ∧
    (paintMemoryFault s k a w).start = s.start ∧ (paintMemoryFault s k a w).offers = s.offers ∧
    (paintMemoryFault s k a w).seats = s.seats ∧ (paintMemoryFault s k a w).holds = s.holds ∧
    (paintMemoryFault s k a w).clock = s.clock ∧ (paintMemoryFault s k a w).roster = s.roster ∧
    (paintMemoryFault s k a w).notices = s.notices ∧ (paintMemoryFault s k a w).trailers = s.trailers ∧
    (paintMemoryFault s k a w).memOut = s.memOut ∧ (paintMemoryFault s k a w).ctlOut = s.ctlOut ∧
    (paintMemoryFault s k a w).free = s.free ∧ (paintMemoryFault s k a w).pending = s.pending := by
  unfold paintMemoryFault
  (repeat' split) <;> simp

@[simp] theorem glyphReadDone_keeps (s : State) (k : Fin 2) (a : BitVec 32) (x : ReadResult) :
    (glyphReadDone s k a x).resetN = s.resetN ∧ (glyphReadDone s k a x).lrstN = s.lrstN ∧
    (glyphReadDone s k a x).decoder = s.decoder ∧ (glyphReadDone s k a x).setup = s.setup ∧
    (glyphReadDone s k a x).start = s.start ∧ (glyphReadDone s k a x).offers = s.offers ∧
    (glyphReadDone s k a x).seats = s.seats ∧ (glyphReadDone s k a x).holds = s.holds ∧
    (glyphReadDone s k a x).clock = s.clock ∧ (glyphReadDone s k a x).roster = s.roster ∧
    (glyphReadDone s k a x).notices = s.notices ∧ (glyphReadDone s k a x).trailers = s.trailers ∧
    (glyphReadDone s k a x).memOut = s.memOut ∧ (glyphReadDone s k a x).ctlOut = s.ctlOut ∧
    (glyphReadDone s k a x).free = s.free ∧ (glyphReadDone s k a x).pending = s.pending := by
  unfold glyphReadDone
  dsimp only
  (repeat' split) <;> simp

@[simp] theorem rowWriteDone_keeps (s : State) (k : Fin 2) (r : Nat) (a : BitVec 32) (x : ReadResult) :
    (rowWriteDone s k r a x).resetN = s.resetN ∧ (rowWriteDone s k r a x).lrstN = s.lrstN ∧
    (rowWriteDone s k r a x).decoder = s.decoder ∧ (rowWriteDone s k r a x).setup = s.setup ∧
    (rowWriteDone s k r a x).start = s.start ∧ (rowWriteDone s k r a x).offers = s.offers ∧
    (rowWriteDone s k r a x).seats = s.seats ∧ (rowWriteDone s k r a x).holds = s.holds ∧
    (rowWriteDone s k r a x).clock = s.clock ∧ (rowWriteDone s k r a x).roster = s.roster ∧
    (rowWriteDone s k r a x).notices = s.notices ∧ (rowWriteDone s k r a x).trailers = s.trailers ∧
    (rowWriteDone s k r a x).memOut = s.memOut ∧ (rowWriteDone s k r a x).ctlOut = s.ctlOut ∧
    (rowWriteDone s k r a x).free = s.free ∧ (rowWriteDone s k r a x).pending = s.pending := by
  unfold rowWriteDone
  dsimp only
  (repeat' split) <;> simp

@[simp] theorem glyphFetchDone_keeps (s : State) (e : CacheIx) (a : BitVec 32) (x : ReadResult) :
    (glyphFetchDone s e a x).resetN = s.resetN ∧ (glyphFetchDone s e a x).lrstN = s.lrstN ∧
    (glyphFetchDone s e a x).decoder = s.decoder ∧ (glyphFetchDone s e a x).setup = s.setup ∧
    (glyphFetchDone s e a x).start = s.start ∧ (glyphFetchDone s e a x).offers = s.offers ∧
    (glyphFetchDone s e a x).seats = s.seats ∧ (glyphFetchDone s e a x).holds = s.holds ∧
    (glyphFetchDone s e a x).clock = s.clock ∧ (glyphFetchDone s e a x).roster = s.roster ∧
    (glyphFetchDone s e a x).trailers = s.trailers ∧ (glyphFetchDone s e a x).memOut = s.memOut ∧
    (glyphFetchDone s e a x).ctlOut = s.ctlOut ∧ (glyphFetchDone s e a x).free = s.free ∧
    (glyphFetchDone s e a x).pending = s.pending := by
  unfold glyphFetchDone
  dsimp only
  (repeat' split) <;> simp

@[simp] theorem reportRecordDone_keeps (s : State) (x : ReadResult) :
    (reportRecordDone s x).resetN = s.resetN ∧ (reportRecordDone s x).lrstN = s.lrstN ∧
    (reportRecordDone s x).decoder = s.decoder ∧ (reportRecordDone s x).setup = s.setup ∧
    (reportRecordDone s x).start = s.start ∧ (reportRecordDone s x).offers = s.offers ∧
    (reportRecordDone s x).seats = s.seats ∧ (reportRecordDone s x).holds = s.holds ∧
    (reportRecordDone s x).clock = s.clock ∧ (reportRecordDone s x).roster = s.roster ∧
    (reportRecordDone s x).notices = s.notices ∧ (reportRecordDone s x).trailers = s.trailers ∧
    (reportRecordDone s x).memOut = s.memOut ∧ (reportRecordDone s x).ctlOut = s.ctlOut ∧
    (reportRecordDone s x).free = s.free ∧ (reportRecordDone s x).pending = s.pending := by
  unfold reportRecordDone
  dsimp only
  (repeat' split) <;> simp

@[simp] theorem reportHeaderDone_keeps (s : State) (x : ReadResult) :
    (reportHeaderDone s x).resetN = s.resetN ∧ (reportHeaderDone s x).lrstN = s.lrstN ∧
    (reportHeaderDone s x).decoder = s.decoder ∧ (reportHeaderDone s x).setup = s.setup ∧
    (reportHeaderDone s x).start = s.start ∧ (reportHeaderDone s x).offers = s.offers ∧
    (reportHeaderDone s x).seats = s.seats ∧ (reportHeaderDone s x).holds = s.holds ∧
    (reportHeaderDone s x).clock = s.clock ∧ (reportHeaderDone s x).roster = s.roster ∧
    (reportHeaderDone s x).notices = s.notices ∧ (reportHeaderDone s x).trailers = s.trailers ∧
    (reportHeaderDone s x).memOut = s.memOut ∧ (reportHeaderDone s x).ctlOut = s.ctlOut ∧
    (reportHeaderDone s x).free = s.free ∧ (reportHeaderDone s x).pending = s.pending := by
  unfold reportHeaderDone
  (repeat' split) <;> simp

@[simp] theorem ownEffect_keeps (s : State) (a : BitVec 32) (p : OwnPurpose) (x : ReadResult) :
    (ownEffect s a p x).resetN = s.resetN ∧ (ownEffect s a p x).lrstN = s.lrstN ∧
    (ownEffect s a p x).offers = s.offers ∧ (ownEffect s a p x).memOut = s.memOut ∧
    (ownEffect s a p x).ctlOut = s.ctlOut ∧ (ownEffect s a p x).pending = s.pending := by
  unfold ownEffect
  (repeat' split) <;> simp

@[simp] theorem ownDone_keeps (s : State) (a : BitVec 32) (p : OwnPurpose) (x : ReadResult) :
    (ownDone s a p x).resetN = s.resetN ∧ (ownDone s a p x).lrstN = s.lrstN ∧ (ownDone s a p x).offers = s.offers ∧
    (ownDone s a p x).memOut = s.memOut ∧ (ownDone s a p x).ctlOut = s.ctlOut ∧ (ownDone s a p x).pending = s.pending := by
  unfold ownDone
  (repeat' split) <;> simp

@[simp] theorem noteIssued_keeps (s : State) (p : OwnPurpose) :
    (noteIssued s p).resetN = s.resetN ∧ (noteIssued s p).lrstN = s.lrstN ∧ (noteIssued s p).part = s.part ∧
    (noteIssued s p).decoder = s.decoder ∧ (noteIssued s p).setup = s.setup ∧ (noteIssued s p).traffic = s.traffic ∧
    (noteIssued s p).seats = s.seats ∧ (noteIssued s p).holds = s.holds ∧ (noteIssued s p).clock = s.clock ∧
    (noteIssued s p).due = s.due ∧ (noteIssued s p).roster = s.roster ∧ (noteIssued s p).scan = s.scan ∧
    (noteIssued s p).trailers = s.trailers ∧ (noteIssued s p).memOut = s.memOut ∧ (noteIssued s p).ctlOut = s.ctlOut ∧
    (noteIssued s p).free = s.free ∧ (noteIssued s p).pending = s.pending := by
  cases p <;> simp [noteIssued, dropCommitOffer]

@[simp] theorem handOff_keeps (s : State) (e : InFlight) :
    (handOff s e).resetN = s.resetN ∧ (handOff s e).lrstN = s.lrstN ∧ (handOff s e).part = s.part ∧
    (handOff s e).decoder = s.decoder ∧ (handOff s e).setup = s.setup ∧ (handOff s e).start = s.start ∧
    (handOff s e).traffic = s.traffic ∧ (handOff s e).offers = s.offers ∧ (handOff s e).seats = s.seats ∧
    (handOff s e).journal = s.journal ∧ (handOff s e).holds = s.holds ∧ (handOff s e).clock = s.clock ∧
    (handOff s e).due = s.due ∧ (handOff s e).roster = s.roster ∧ (handOff s e).notices = s.notices ∧
    (handOff s e).scan = s.scan ∧ (handOff s e).memOut = s.memOut ∧ (handOff s e).ctlOut = s.ctlOut ∧
    (handOff s e).free = s.free ∧ (handOff s e).pending = s.pending := by
  unfold handOff
  (repeat' split) <;> simp

@[simp] theorem forwardHead_keeps (s : State) (c : CtlTag) (e : InFlight) :
    (forwardHead s c e).resetN = s.resetN ∧ (forwardHead s c e).lrstN = s.lrstN ∧ (forwardHead s c e).part = s.part ∧
    (forwardHead s c e).decoder = s.decoder ∧ (forwardHead s c e).setup = s.setup ∧
    (forwardHead s c e).start = s.start ∧ (forwardHead s c e).offers = s.offers ∧
    (forwardHead s c e).seats = s.seats ∧ (forwardHead s c e).journal = s.journal ∧
    (forwardHead s c e).holds = s.holds ∧ (forwardHead s c e).clock = s.clock ∧ (forwardHead s c e).due = s.due ∧
    (forwardHead s c e).roster = s.roster ∧ (forwardHead s c e).notices = s.notices ∧
    (forwardHead s c e).scan = s.scan ∧ (forwardHead s c e).ctlOut = s.ctlOut ∧ (forwardHead s c e).free = s.free ∧
    (forwardHead s c e).pending = s.pending := by
  simp [forwardHead]

@[simp] theorem commitsTaken_keeps (s : State) (st : Status) (xs : List CommitItem) :
    (commitsTaken s st xs).resetN = s.resetN ∧ (commitsTaken s st xs).lrstN = s.lrstN ∧
    (commitsTaken s st xs).decoder = s.decoder ∧ (commitsTaken s st xs).setup = s.setup ∧
    (commitsTaken s st xs).offers = s.offers ∧ (commitsTaken s st xs).seats = s.seats ∧
    (commitsTaken s st xs).holds = s.holds ∧ (commitsTaken s st xs).notices = s.notices ∧
    (commitsTaken s st xs).memOut = s.memOut ∧ (commitsTaken s st xs).ctlOut = s.ctlOut ∧
    (commitsTaken s st xs).free = s.free ∧ (commitsTaken s st xs).pending = s.pending := by
  unfold commitsTaken
  (repeat' split) <;> simp

@[simp] theorem returnResponse_keeps (s : State) (c : CtlTag) (e : InFlight) (st : Status) (d : List Byte) :
    (returnResponse s c e st d).resetN = s.resetN ∧ (returnResponse s c e st d).lrstN = s.lrstN ∧
    (returnResponse s c e st d).decoder = s.decoder ∧ (returnResponse s c e st d).setup = s.setup ∧
    (returnResponse s c e st d).offers = s.offers ∧ (returnResponse s c e st d).seats = s.seats ∧
    (returnResponse s c e st d).holds = s.holds ∧ (returnResponse s c e st d).notices = s.notices ∧
    (returnResponse s c e st d).memOut = s.memOut ∧ (returnResponse s c e st d).free = s.free ∧
    (returnResponse s c e st d).pending = s.pending := by
  simp [returnResponse]

@[simp] theorem takeResponse_keeps (s : State) (m : MemTag) (h : Holder) (st : Status) (d : List Byte) :
    (takeResponse s m h st d).resetN = s.resetN ∧ (takeResponse s m h st d).lrstN = s.lrstN ∧
    (takeResponse s m h st d).decoder = s.decoder ∧ (takeResponse s m h st d).setup = s.setup ∧
    (takeResponse s m h st d).offers = s.offers ∧ (takeResponse s m h st d).seats = s.seats ∧
    (takeResponse s m h st d).holds = s.holds ∧ (takeResponse s m h st d).notices = s.notices ∧
    (takeResponse s m h st d).memOut = s.memOut ∧ (takeResponse s m h st d).free = s.free ∧
    (takeResponse s m h st d).pending = s.pending := by
  unfold takeResponse
  (repeat' split) <;> simp

@[simp] theorem expireEntry_keeps (s : State) (c : CtlTag) (e : InFlight) :
    (expireEntry s c e).resetN = s.resetN ∧ (expireEntry s c e).lrstN = s.lrstN ∧ (expireEntry s c e).part = s.part ∧
    (expireEntry s c e).decoder = s.decoder ∧ (expireEntry s c e).setup = s.setup ∧
    (expireEntry s c e).start = s.start ∧ (expireEntry s c e).commit = s.commit ∧
    (expireEntry s c e).offers = s.offers ∧ (expireEntry s c e).seats = s.seats ∧
    (expireEntry s c e).journal = s.journal ∧ (expireEntry s c e).holds = s.holds ∧
    (expireEntry s c e).clock = s.clock ∧ (expireEntry s c e).due = s.due ∧ (expireEntry s c e).roster = s.roster ∧
    (expireEntry s c e).painter = s.painter ∧ (expireEntry s c e).notices = s.notices ∧
    (expireEntry s c e).scan = s.scan ∧ (expireEntry s c e).trailers = s.trailers ∧
    (expireEntry s c e).reports = s.reports ∧ (expireEntry s c e).memOut = s.memOut ∧
    (expireEntry s c e).ctlOut = s.ctlOut ∧ (expireEntry s c e).free = s.free ∧
    (expireEntry s c e).pending = s.pending := by
  unfold expireEntry
  dsimp only
  (repeat' split) <;> simp

@[simp] theorem hostTimeout_keeps (s : State) (c : CtlTag) (e : InFlight) :
    (hostTimeout s c e).resetN = s.resetN ∧ (hostTimeout s c e).lrstN = s.lrstN ∧ (hostTimeout s c e).part = s.part ∧
    (hostTimeout s c e).decoder = s.decoder ∧ (hostTimeout s c e).setup = s.setup ∧
    (hostTimeout s c e).start = s.start ∧ (hostTimeout s c e).commit = s.commit ∧
    (hostTimeout s c e).offers = s.offers ∧ (hostTimeout s c e).seats = s.seats ∧
    (hostTimeout s c e).journal = s.journal ∧ (hostTimeout s c e).holds = s.holds ∧
    (hostTimeout s c e).clock = s.clock ∧ (hostTimeout s c e).due = s.due ∧ (hostTimeout s c e).roster = s.roster ∧
    (hostTimeout s c e).painter = s.painter ∧ (hostTimeout s c e).notices = s.notices ∧
    (hostTimeout s c e).scan = s.scan ∧ (hostTimeout s c e).trailers = s.trailers ∧
    (hostTimeout s c e).memOut = s.memOut ∧ (hostTimeout s c e).pending = s.pending := by
  simp [hostTimeout]

end Sys2Proof.Machine
end

