-- ==== Sys2Proof/Laws/Traffic.lean ====
section
/-! SUPPORT. What becomes of the Traffic Path's state in the operations that are not the port's own: at most the live own
requests are dropped (R174, R181) and the read plans lost (R138). -/

namespace Sys2Proof.Machine

/-- The Traffic Path after an operation that is not the port's own. -/
structure Quieter (s t : State) : Prop where
  queue : t.traffic.queue = s.traffic.queue
  grants : t.traffic.grants = s.traffic.grants
  place : t.traffic.place = s.traffic.place
  cycles : t.traffic.cycles = s.traffic.cycles
  tags : t.traffic.tags = s.traffic.tags ∨ t.traffic.tags = mapTab s.traffic.tags dropHolder
  inflight : t.traffic.inflight = s.traffic.inflight ∨ t.traffic.inflight = mapTab s.traffic.inflight losePlan

@[simp] theorem dropHolder_dropHolder (u : Option TagUse) : dropHolder (dropHolder u) = dropHolder u := by
  rcases u with _ | ⟨a, w, n, h⟩
  · rfl
  · cases h with
    | own p t st => cases st <;> rfl
    | _ => rfl

@[simp] theorem losePlan_losePlan (e : Option InFlight) : losePlan (losePlan e) = losePlan e := by
  cases e <;> rfl

theorem Quieter.of_eq {s t : State} (h : t.traffic = s.traffic) : Quieter s t := by
  constructor <;> simp [h]

theorem Quieter.refl (s : State) : Quieter s s := .of_eq rfl

theorem Quieter.trans {s t u : State} (h : Quieter s t) (k : Quieter t u) : Quieter s u where
  queue := k.queue.trans h.queue
  grants := k.grants.trans h.grants
  place := k.place.trans h.place
  cycles := k.cycles.trans h.cycles
  tags := by
    rcases h.tags with h1 | h1 <;> rcases k.tags with h2 | h2 <;> rw [h2, h1]
    · exact .inl rfl
    · exact .inr rfl
    · exact .inr rfl
    · right; apply table_ext; simp
  inflight := by
    rcases h.inflight with h1 | h1 <;> rcases k.inflight with h2 | h2 <;> rw [h2, h1]
    · exact .inl rfl
    · exact .inr rfl
    · exact .inr rfl
    · right; apply table_ext; simp

/-- An operation that follows another and leaves the Traffic Path alone. -/
theorem Quieter.then_eq {s t u : State} (h : Quieter s t) (k : u.traffic = t.traffic) : Quieter s u :=
  h.trans (.of_eq k)

/-- An operation after an update that leaves the Traffic Path alone. -/
theorem Quieter.before {s s' u : State} (h : Quieter s' u) (k : s'.traffic = s.traffic) : Quieter s u :=
  (Quieter.of_eq k).trans h

theorem Quieter.foldl {α : Type} (f : State → α → State) (h : ∀ s a, Quieter s (f s a)) (l : List α) (s : State) :
    Quieter s (l.foldl f s) := by
  induction l generalizing s with
  | nil => exact .refl s
  | cons a l ih => exact (h s a).trans (ih _)

theorem enterTransparent_quieter (s : State) : Quieter s (enterTransparent s) :=
  ⟨rfl, rfl, rfl, rfl, .inr rfl, .inr rfl⟩

theorem contain_quieter (s : State) (c : Containment) : Quieter s (contain s c) := by
  unfold contain
  split
  · exact .of_eq (by simp)
  · exact enterTransparent_quieter s
  · exact .refl s

theorem memoryFault_quieter (s : State) (r : Requester) (a : BitVec 32) (w : Bool) :
    Quieter s (memoryFault s r a w) :=
  (contain_quieter _ _).before (by simp)

theorem reportWriteFault_quieter (s : State) (b : Bool) : Quieter s (reportWriteFault s b) := by
  unfold reportWriteFault
  exact (contain_quieter _ _).before rfl

theorem beginRestart_quieter (s : State) : Quieter s (beginRestart s) :=
  ⟨rfl, rfl, rfl, rfl, .inr rfl, .inl rfl⟩

theorem requestRestart_quieter (s : State) : Quieter s (requestRestart s) := by
  unfold requestRestart
  repeat' split
  all_goals first | exact .refl s | exact beginRestart_quieter s

theorem restartWritten_quieter (s : State) (v : Byte) : Quieter s (restartWritten s v) := by
  unfold restartWritten
  split
  · exact .refl s
  · exact (requestRestart_quieter _).before rfl

theorem takeItem_quieter (s : State) (x : CommitItem) : Quieter s (takeItem s x) := by
  unfold takeItem
  split
  · cases x
    case restart => exact restartWritten_quieter _ _
    all_goals exact .of_eq (by simp)
  · exact .refl s

theorem takeItems_quieter (s : State) (l : List CommitItem) : Quieter s (takeItems s l) :=
  .foldl _ takeItem_quieter l s

theorem commitsTaken_quieter (s : State) (st : Status) (l : List CommitItem) : Quieter s (commitsTaken s st l) := by
  unfold commitsTaken
  split
  · exact takeItems_quieter s l
  · exact .refl s

theorem refuseLoad_quieter (s : State) : Quieter s (refuseLoad s) :=
  ⟨rfl, rfl, rfl, rfl, .inr rfl, .inr rfl⟩

theorem setupReadDone_quieter (s : State) (k : Nat) (x : ReadResult) : Quieter s (setupReadDone s k x) := by
  unfold setupReadDone
  dsimp only
  repeat' split
  · exact .of_eq rfl
  · exact .of_eq (by simp)
  · exact (refuseLoad_quieter _).before rfl
  · exact (refuseLoad_quieter _).before rfl

theorem fetchFault_quieter (s : State) (r : RecordId) (k : Nat) : Quieter s (fetchFault s r k) := by
  unfold fetchFault
  have h := memoryFault_quieter s .commit (fetchBurst s r k).addr false
  dsimp only
  repeat' split
  · exact h
  · exact h.then_eq (by simp)
  · exact h.then_eq (by simp)

theorem endFetch_quieter (s : State) (f : Fetch) : Quieter s (endFetch s f) := by
  unfold endFetch
  dsimp only
  split
  · exact (fetchFault_quieter _ _ _).before rfl
  · exact .of_eq (by simp)

theorem commitFetchDone_quieter (s : State) (r : RecordId) (k : Nat) (x : ReadResult) :
    Quieter s (commitFetchDone s r k x) := by
  unfold commitFetchDone
  dsimp only
  repeat' split
  · exact .refl s
  · exact .of_eq rfl
  · exact endFetch_quieter _ _

theorem journalFetchDone_quieter (s : State) (a : BitVec 32) (x : ReadResult) :
    Quieter s (journalFetchDone s a x) := by
  unfold journalFetchDone
  have h := memoryFault_quieter s .commit a false
  dsimp only
  repeat' split
  · exact .of_eq (by simp)
  · exact .of_eq (by simp)
  · exact h
  · exact h.then_eq (by simp)

theorem paintMemoryFault_quieter (s : State) (k : Fin 2) (a : BitVec 32) (w : Bool) :
    Quieter s (paintMemoryFault s k a w) := by
  unfold paintMemoryFault
  repeat' split
  · exact memoryFault_quieter _ _ _ _
  · exact .refl s
  · exact .refl s

theorem glyphReadDone_quieter (s : State) (k : Fin 2) (a : BitVec 32) (x : ReadResult) :
    Quieter s (glyphReadDone s k a x) := by
  unfold glyphReadDone
  have h := paintMemoryFault_quieter s k a false
  dsimp only
  repeat' split
  · exact .of_eq (by simp)
  · exact h
  · exact h.then_eq (by simp)

theorem rowWriteDone_quieter (s : State) (k : Fin 2) (r : Nat) (a : BitVec 32) (x : ReadResult) :
    Quieter s (rowWriteDone s k r a x) := by
  unfold rowWriteDone
  have h := paintMemoryFault_quieter s k a true
  dsimp only
  repeat' split
  · exact .of_eq (by simp)
  · exact h
  · exact h.then_eq (by simp)

theorem glyphFetchDone_quieter (s : State) (e : CacheIx) (a : BitVec 32) (x : ReadResult) :
    Quieter s (glyphFetchDone s e a x) := by
  unfold glyphFetchDone
  have h := memoryFault_quieter s .notice a false
  dsimp only
  repeat' split
  · exact .of_eq (by simp)
  · exact h
  · exact h.then_eq (by simp)

/-- What an answer or a timeout of an own request does at its owner leaves the Traffic Path as it is, but for dropped
requests and lost plans. -/
theorem ownEffect_quieter (s : State) (a : BitVec 32) (p : OwnPurpose) (x : ReadResult) :
    Quieter s (ownEffect s a p x) := by
  unfold ownEffect
  split
  · exact setupReadDone_quieter _ _ _
  · exact .of_eq (by simp)
  · exact commitFetchDone_quieter _ _ _ _
  · exact journalFetchDone_quieter _ _ _
  · unfold writeBackDone
    split
    · exact .refl s
    · exact memoryFault_quieter _ _ _ _
  · exact glyphReadDone_quieter _ _ _ _
  · exact rowWriteDone_quieter _ _ _ _ _
  · exact glyphFetchDone_quieter _ _ _ _
  · unfold reportRecordDone
    split
    · exact .of_eq rfl
    · exact reportWriteFault_quieter _ _
  · unfold reportHeaderDone
    split
    · exact .refl s
    · exact reportWriteFault_quieter _ _

theorem ownDone_quieter (s : State) (a : BitVec 32) (p : OwnPurpose) (x : ReadResult) :
    Quieter s (ownDone s a p x) := by
  unfold ownDone
  split
  · exact ownEffect_quieter _ _ _ _
  · exact .refl s

/-! ### The law of tags and blocks -/

/-- The law reads the tags alone. -/
theorem TagLaw.of_tags {s t : State} (h : TagLaw s) (k : t.traffic.tags = s.traffic.tags) : TagLaw t :=
  ⟨fun m u hu => h.own m u (k ▸ hu), fun m n u v hmn hu hv => h.apart m n u v hmn (k ▸ hu) (k ▸ hv)⟩

/-- The law goes over to tags whose uses come from the old ones with the same block and direction. -/
theorem TagLaw.of_uses {s t : State} (h : TagLaw s)
    (k : ∀ m u, t.traffic.tags.get m = some u → ∃ v, s.traffic.tags.get m = some v ∧ v.addr = u.addr ∧
      v.isWrite = u.isWrite ∧ v.holder.isOwn = u.holder.isOwn) : TagLaw t where
  own m u hu := by
    obtain ⟨v, hv, _, _, h3⟩ := k m u hu
    rw [← h3]; exact h.own m v hv
  apart m n u v hmn hu hv hw hx := by
    obtain ⟨u', hu', h1, h2, _⟩ := k m u hu
    obtain ⟨v', hv', h4, h5, _⟩ := k n v hv
    rw [← h1, ← h4]
    exact h.apart m n u' v' hmn hu' hv' (h2.trans hw) (h5.trans hx)

theorem dropHolder_some {x : Option TagUse} {u : TagUse} (h : dropHolder x = some u) :
    ∃ v, x = some v ∧ v.addr = u.addr ∧ v.isWrite = u.isWrite ∧ v.beats = u.beats ∧
      v.holder.isOwn = u.holder.isOwn := by
  unfold dropHolder at h
  split at h
  · cases h; exact ⟨_, rfl, rfl, rfl, rfl, rfl⟩
  · exact ⟨u, h, rfl, rfl, rfl, rfl⟩

theorem TagLaw.of_quieter {s t : State} (h : TagLaw s) (k : Quieter s t) : TagLaw t := by
  rcases k.tags with h1 | h1
  · exact h.of_tags h1
  · refine h.of_uses fun m u hu => ?_
    rw [h1, get_mapTab] at hu
    obtain ⟨v, h2, h3, h4, _, h5⟩ := dropHolder_some hu
    exact ⟨v, h2, h3, h4, h5⟩

/-- No write to the block of an address is outstanding. -/
theorem hazard_false {s : State} {a : BitVec 32} (h : hazard s a = false) {m : MemTag} {u : TagUse}
    (hu : s.traffic.tags.get m = some u) (hw : u.isWrite = true) : blockOf u.addr ≠ blockOf a := by
  intro hb
  have : hazard s a = true := by
    simp only [hazard, List.any_eq_true]
    exact ⟨m, List.mem_finRange m, by simp [hu, hw, hb]⟩
  simp [this] at h

/-- A request to a block without an outstanding write may be issued under a free tag of its kind. -/
theorem TagLaw.issue {s : State} (h : TagLaw s) (m : MemTag) (b : Burst) (x : Holder)
    (hz : hazard s b.addr = false) (hx : 64 ≤ m.val ↔ x.isOwn = true) : TagLaw (issue s m b x) where
  own n u hu := by
    simp only [Machine.issue, get_setAt] at hu
    split at hu
    · next e => cases hu; rw [e]; exact hx
    · exact h.own n u hu
  apart n k u v hnk hu hv hw hw' := by
    simp only [Machine.issue, get_setAt] at hu hv
    split at hu <;> split at hv
    · next e1 e2 => exact absurd (e1.trans e2.symm) hnk
    · cases hu; exact fun e => hazard_false hz hv hw' e.symm
    · cases hv; exact hazard_false hz hu hw
    · exact h.apart n k u v hnk hu hv hw hw'

/-- A freed tag keeps the law. -/
theorem TagLaw.freeTag {s : State} (h : TagLaw s) (m : MemTag) : TagLaw (freeTag s m) := by
  refine h.of_uses fun n u hu => ?_
  simp only [Machine.freeTag, get_setAt] at hu
  split at hu
  · cases hu
  · exact ⟨u, hu, rfl, rfl, rfl⟩

/-- A tag's change of holder keeps the law when it stays of its kind. -/
theorem TagLaw.setHolder {s : State} (h : TagLaw s) (m : MemTag) (x : Holder) (hx : 64 ≤ m.val ↔ x.isOwn = true) :
    TagLaw (setHolder s m x) where
  own n u hu := by
    simp only [Machine.setHolder, get_modAt] at hu
    split at hu
    · next e =>
      rw [Option.map_eq_some_iff] at hu
      obtain ⟨v, _, rfl⟩ := hu
      rw [e]; exact hx
    · exact h.own n u hu
  apart n k u v hnk hu hv hw hw' := by
    have key : ∀ n u, (Machine.setHolder s m x).traffic.tags.get n = some u →
        ∃ v, s.traffic.tags.get n = some v ∧ v.addr = u.addr ∧ v.isWrite = u.isWrite := by
      intro n u hu
      simp only [Machine.setHolder, get_modAt] at hu
      split at hu
      · next e =>
        rw [Option.map_eq_some_iff] at hu
        obtain ⟨v, hv, rfl⟩ := hu
        exact ⟨v, e ▸ hv, rfl, rfl⟩
      · exact ⟨u, hu, rfl, rfl⟩
    obtain ⟨u', h1, h2, h3⟩ := key n u hu
    obtain ⟨v', h4, h5, h6⟩ := key k v hv
    rw [← h2, ← h5]
    exact h.apart n k u' v' hnk h1 h4 (h3.trans hw) (h6.trans hw')

end Sys2Proof.Machine
end

