-- ==== Sys2Proof/Laws/Commands.lean ====
section
/-! SUPPORT. Everything a command can do, said once: a command that answers a next state has changed nothing, or has run
one of the rules below, and the guards of that rule held. -/

namespace Sys2Proof.Machine

/-! ### The arbiter -/

theorem arbiterPick_controller {s : State} (h : arbiterPick s = some .controller) : headReady s = true := by
  unfold arbiterPick at h
  split at h <;> simp_all

theorem ownPick_ready {s : State} {r : Requester} (h : ownPick s = some r) : ownReady s r = true :=
  List.find?_some h

theorem mem_roundRobin (p r : Requester) : r ∈ roundRobin p := by
  cases p <;> cases r <;> decide

theorem ownPick_none {s : State} : ownPick s = none ↔ ∀ r, ownReady s r = false := by
  unfold ownPick
  rw [List.find?_eq_none]
  constructor
  · intro h r
    simpa using h r (mem_roundRobin _ _)
  · intro h r _
    simp [h r]

theorem arbiterPick_own {s : State} {r : Requester} (h : arbiterPick s = some (.own r)) : ownPick s = some r := by
  unfold arbiterPick at h
  split at h
  · split at h
    · cases h
    · cases h; assumption
  · cases h
  · cases h; assumption
  · cases h

/-- A requester that is ready offers a request to a block without an outstanding write, and an own tag is free. -/
theorem ownReady_request {s : State} {r : Requester} (h : ownReady s r = true) :
    ∃ p b m, ownRequest s r = some (p, b) ∧ hazard s b.addr = false ∧ freeOwnTag s = some m := by
  unfold ownReady at h
  split at h
  · next x hx =>
    simp only [Bool.and_eq_true, Bool.not_eq_eq_eq_not, Bool.not_true, Option.isSome_iff_exists] at h
    obtain ⟨h1, m, h2⟩ := h
    exact ⟨x.1, x.2, m, hx, h1, h2⟩
  · cases h

/-- The tag of an own request: free, and one of 64–127. -/
theorem freeOwnTag_spec {s : State} {m : MemTag} (h : freeOwnTag s = some m) :
    64 ≤ m.val ∧ s.traffic.tags.get m = none := by
  have := List.find?_some h
  simpa using this

/-- The head that the arbiter grants has a free memory tag and a block without an outstanding write. -/
theorem headReady_spec {s : State} (h : headReady s = true) {c : CtlTag} {e : InFlight}
    (he : headEntry s = some (c, e)) :
    heldWrite s e = false ∧ s.traffic.tags.get (memTagOf c) = none ∧ hazard s (forwardedAddr e) = false := by
  unfold headReady at h
  rw [he] at h
  simp only [Bool.and_eq_true, Bool.not_eq_eq_eq_not, Bool.not_true, Option.isNone_iff_eq_none] at h
  exact ⟨h.1.1, h.1.2, h.2⟩

theorem headEntry_spec {s : State} {c : CtlTag} {e : InFlight} (h : headEntry s = some (c, e)) :
    s.traffic.queue = c :: s.traffic.queue.tail ∧ s.traffic.inflight.get c = some e := by
  unfold headEntry at h
  rw [Option.bind_eq_some_iff] at h
  obtain ⟨c', h1, h2⟩ := h
  rw [Option.map_eq_some_iff] at h2
  obtain ⟨e', h2, h3⟩ := h2
  cases h3
  refine ⟨?_, h2⟩
  cases hq : s.traffic.queue with
  | nil => simp [hq] at h1
  | cons a l => simp only [hq, List.head?_cons, Option.some.injEq] at h1; simp [h1]

/-! ### What a command can do -/

/-- A rule that a command ran, with its guards, and the state it left. -/
inductive Ran (s : State) : Instr → State → Prop
  | resetNAssert : Ran s .resetNAssert (held s)
  | resetNRelease (b : BitVec 3) (low : s.resetN = false) : Ran s (.resetNRelease b) (settle (beginLoad s b))
  | lrstNAssert (high : s.lrstN = true) : Ran s .lrstNAssert (settle { linkReset s with lrstN := false })
  | lrstNRelease : Ran s .lrstNRelease { s with lrstN := true }
  | reuse (c : CtlTag) (b : Burst) (e : InFlight) (port : portTakes s = true) (wf : b.wf = true)
      (used : s.traffic.inflight.get c = some e) : Ran s (.controllerRequest c b) (settle (reuseTag s c b))
  | accept (c : CtlTag) (b : Burst) (port : portTakes s = true) (wf : b.wf = true)
      (unused : s.traffic.inflight.get c = none) : Ran s (.controllerRequest c b) (settle (acceptRequest s c b))
  | forward (c : CtlTag) (e : InFlight) (high : s.resetN = true) (pick : arbiterPick s = some .controller)
      (head : headEntry s = some (c, e)) : Ran s .forwardGrant (settle (forwardHead s c e))
  | response (m : MemTag) (u : TagUse) (st : Status) (d : List Byte) (high : s.resetN = true)
      (use : s.traffic.tags.get m = some u) (ctl : u.holder.isOwn = false) (wf : answerWf u st d = true) :
      Ran s (.memoryResponse m st d) (settle (takeResponse (freeTag s m) m u.holder st d))
  | hostTimeout (c : CtlTag) (e : InFlight) (high : s.resetN = true) (entry : s.traffic.inflight.get c = some e)
      (expired : s.timerExpired e.started = true) : Ran s (.hostTimeout c) (settle (hostTimeout s c e))
  | ownTimeout (m : MemTag) (u : TagUse) (p : OwnPurpose) (k : Nat) (st : OwnStatus) (high : s.resetN = true)
      (use : s.traffic.tags.get m = some u) (own : u.holder = .own p k st) (running : st ≠ .timedOut)
      (expired : s.timerExpired k = true) : Ran s (.ownRequestTimeout m) (settle (ownTimeout s m u p k st))
  | centiTick (high : s.resetN = true) (running : s.clock.running = true) :
      Ran s .centiTick (settle { s with clock := s.clock.tick })
  | lobbySecond (high : s.resetN = true) (due : 0 < s.clock.secondsDue) : Ran s .lobbySecond (settle (takeSecond s))
  | phaseFire (i : ShowingIx) (p : Phase) (t : LobbyTime) (rest : List DueEntry) (high : s.resetN = true)
      (active : s.active = true) (batch : s.due.batch = { key := .phase i, target := some p, time := t } :: rest) :
      Ran s .phaseFire (settle (firePhase (popBatch s) i p))
  | holdExpire (h : HoldIx) (p : Option Phase) (t : LobbyTime) (rest : List DueEntry) (high : s.resetN = true)
      (active : s.active = true) (batch : s.due.batch = { key := .hold h, target := p, time := t } :: rest) :
      Ran s .holdExpire (settle (expireHold (popBatch s) h))
  | noticeExpire (n : NoticeIx) (p : Option Phase) (t : LobbyTime) (rest : List DueEntry) (high : s.resetN = true)
      (active : s.active = true) (batch : s.due.batch = { key := .notice n, target := p, time := t } :: rest) :
      Ran s .noticeExpire (settle (expireNotice (popBatch s) n))
  | gapTimeout (high : s.resetN = true) (expired : gapExpired s = true) : Ran s .gapTimeout (settle (skipGap s))
  | passIdleTimeout (p : PanelIx) (high : s.resetN = true) (expired : idleExpired s p = true) :
      Ran s (.passIdleTimeout p) (settle (endPass s p))
  | issue (c : Instr) (mine : OwnPurpose → Bool) (r : Requester) (p : OwnPurpose) (b : Burst) (m : MemTag)
      (kind : issuedKind c = some mine) (high : s.resetN = true) (pick : arbiterPick s = some (.own r))
      (request : ownRequest s r = some (p, b)) (isMine : mine p = true) (tag : freeOwnTag s = some m)
      (block : hazard s b.addr = false) :
      Ran s c (settle (noteIssued (Machine.issue (ownGranted s r) m b (.own p s.traffic.cycles .live)) p))
  | answer (c : Instr) (m : MemTag) (u : TagUse) (p : OwnPurpose) (k : Nat) (st : OwnStatus) (status : Status)
      (d : List Byte) (kind : issuedKind c = none) (high : s.resetN = true) (use : s.traffic.tags.get m = some u)
      (own : u.holder = .own p k st) (wf : answerWf u status d = true) : Ran s c (settle (ownResponse s m u p st (resultFor status d)))
  | cellTake (r : CellRef) (rest : List CellRef) (high : s.resetN = true) (free : canTake s = true)
      (queue : s.painter.queue = r :: rest) : Ran s .cellTake (settle (takeCell s r))
  | paintComplete (p : Paint) (rest : List Paint) (high : s.resetN = true) (active : s.active = true)
      (slots : s.painter.slots = p :: rest) (ended : p.stage = .ended) :
      Ran s .paintComplete (settle (endPaint (freePaint s) p))
  | restartReload (high : s.resetN = true) (can : canReload s = true) : Ran s .restartReload (settle (reload s))

/-- An event that acts. -/
theorem event_next {s t u : State} {ok : Bool} (h : event s ok t = .next u) :
    u = s ∨ (s.resetN = true ∧ ok = true ∧ u = settle t) := by
  unfold event at h
  split at h
  · next h1 =>
    rw [Bool.and_eq_true] at h1
    cases h
    exact .inr ⟨h1.1, h1.2, rfl⟩
  · cases h
    exact .inl rfl

/-- The ten commands that issue an own request. -/
theorem issueOwn_cases {s : State} {c : Instr} {mine : OwnPurpose → Bool} (k : issuedKind c = some mine) :
    issueOwn s mine = s ∨ Ran s c (issueOwn s mine) := by
  unfold issueOwn
  split
  · next r p b hg =>
    split
    · next hr =>
      right
      unfold grantable at hg
      split at hg
      · next r' hp =>
        split at hg
        · next p' b' hq =>
          split at hg
          · next hm =>
            cases hg
            obtain ⟨p2, b2, m, h1, h2, h3⟩ := ownReady_request (ownPick_ready (arbiterPick_own hp))
            rw [hq] at h1
            cases h1
            unfold grantOwn
            rw [h3]
            exact .issue c mine r p b m k hr hp hq hm h3 h2
          · cases hg
        · cases hg
      · cases hg
    · exact .inl rfl
  · exact .inl rfl

/-- The commands that take memory's answer to an own request. -/
theorem answerOwn_cases {s t : State} {c : Instr} {m : MemTag} {st : Status} {d : List Byte}
    {mine : OwnPurpose → Bool} (k : issuedKind c = none) (h : answerOwn s m st d mine = .next t) :
    t = s ∨ Ran s c t := by
  unfold answerOwn at h
  split at h
  · next u p os hu =>
    split at h
    · next hr =>
      split at h
      · next hw =>
        cases h
        unfold ownUse at hu
        split at hu
        · next u' hu' =>
          split at hu
          · next p' n os' ho =>
            split at hu
            · cases hu
              exact .inr (.answer c m u p n os st d k hr hu' ho hw)
            · cases hu
          · cases hu
        · cases hu
      · cases h
    · cases h; exact .inl rfl
  · cases h; exact .inl rfl

theorem event_cases {s t u : State} {ok : Bool} {c : Instr} (h : event s ok t = .next u)
    (k : s.resetN = true → ok = true → Ran s c (settle t)) : u = s ∨ Ran s c u := by
  rcases event_next h with h | ⟨h1, h2, rfl⟩
  · exact .inl h
  · exact .inr (k h1 h2)

/-- A command that answers a next state has changed nothing or has run one of the rules. -/
theorem exec_next {s t : State} {c : Instr} (h : exec c s = .next t) : t = s ∨ Ran s c t := by
  cases c <;> simp only [exec] at h
  case resetNAssert => cases h; exact .inr .resetNAssert
  case resetNRelease b =>
    cases h
    cases hr : s.resetN
    · right; simp only [Bool.false_eq_true, if_false]; exact .resetNRelease b hr
    · simp
  case lrstNAssert =>
    cases h
    cases hr : s.lrstN
    · simp
    · right; simp only [if_true]; exact .lrstNAssert hr
  case lrstNRelease => cases h; exact .inr .lrstNRelease
  case controllerRequest c b =>
    unfold execControllerRequest at h
    split at h
    · next hp =>
      split at h
      · next hw =>
        cases h
        cases hi : s.traffic.inflight.get c with
        | none => right; simp only [Option.isSome_none, Bool.false_eq_true, if_false]; exact .accept c b hp hw hi
        | some e => right; simp only [Option.isSome_some, if_true]; exact .reuse c b e hp hw hi
      · cases h
    · cases h; exact .inl rfl
  case forwardGrant =>
    unfold execForwardGrant at h
    split at h
    · next e1 c e hA hE => exact event_cases h fun hr _ => .forward c e hr hA hE
    · cases h; exact .inl rfl
  case memoryResponse m st d =>
    unfold execMemoryResponse at h
    split at h
    · next u hu =>
      split at h
      · next hr =>
        split at h
        · next hw =>
          cases h
          unfold ctlUse at hu
          split at hu
          · next u' hu' =>
            split at hu
            · cases hu
            · next hn =>
              cases hu
              refine .inr (.response m u st d hr hu' ?_ hw)
              cases hh : u.holder <;> simp_all [Holder.isOwn]
          · cases hu
        · cases h
      · cases h; exact .inl rfl
    · cases h; exact .inl rfl
  case hostTimeout c =>
    unfold execHostTimeout at h
    split at h
    · next e he => exact event_cases h fun hr hx => .hostTimeout c e hr he hx
    · cases h; exact .inl rfl
  case ownRequestTimeout m =>
    unfold execOwnRequestTimeout at h
    split at h
    · next u p k st hu =>
      refine event_cases h fun hr hx => ?_
      unfold timedUse at hu
      split at hu
      · next u' hu' =>
        split at hu
        · next p' k' st' ho =>
          split at hu
          · cases hu
          · next hn => cases hu; exact .ownTimeout m u p k st hr hu' ho hn hx
        · cases hu
      · cases hu
    · cases h; exact .inl rfl
  case centiTick => exact event_cases h .centiTick
  case lobbySecond => exact event_cases h fun hr hx => .lobbySecond hr (by simpa using hx)
  case phaseFire =>
    unfold execPhaseFire at h
    split at h
    · next hb => exact event_cases h fun hr hx => .phaseFire _ _ _ _ hr hx hb
    · cases h; exact .inl rfl
  case holdExpire =>
    unfold execHoldExpire at h
    split at h
    · next hb => exact event_cases h fun hr hx => .holdExpire _ _ _ _ hr hx hb
    · cases h; exact .inl rfl
  case noticeExpire =>
    unfold execNoticeExpire at h
    split at h
    · next hb => exact event_cases h fun hr hx => .noticeExpire _ _ _ _ hr hx hb
    · cases h; exact .inl rfl
  case gapTimeout => exact event_cases h .gapTimeout
  case passIdleTimeout p => exact event_cases h (.passIdleTimeout p)
  case cellTake =>
    unfold execCellTake at h
    split at h
    · next hq => exact event_cases h fun hr hx => .cellTake _ _ hr hx hq
    · cases h; exact .inl rfl
  case paintComplete =>
    unfold execPaintComplete at h
    split at h
    · next hq =>
      refine event_cases h fun hr hx => ?_
      rw [Bool.and_eq_true, beq_iff_eq] at hx
      exact .paintComplete _ _ hr hx.1 hq hx.2
    · cases h; exact .inl rfl
  case restartReload => exact event_cases h .restartReload
  case commitFetchIssue => cases h; exact issueOwn_cases rfl
  case journalFetchIssue => cases h; exact issueOwn_cases rfl
  case writeBackIssue => cases h; exact issueOwn_cases rfl
  case glyphReadIssue => cases h; exact issueOwn_cases rfl
  case rowWriteIssue => cases h; exact issueOwn_cases rfl
  case glyphFetchIssue => cases h; exact issueOwn_cases rfl
  case reportRecordWrite => cases h; exact issueOwn_cases rfl
  case reportHeaderWrite => cases h; exact issueOwn_cases rfl
  case setupRead => cases h; exact issueOwn_cases rfl
  case buildRead => cases h; exact issueOwn_cases rfl
  all_goals exact answerOwn_cases rfl h

/-- A step that answers a next state was one REFCLK cycle, or the command at the front of the queue. -/
theorem step_next {s t : State} (h : step s = .next t) :
    (s.pending = [] ∧ t = refclk s) ∨
      ∃ c rest, s.pending = c :: rest ∧
        (t = { s with pending := rest } ∨ Ran { s with pending := rest } c t) := by
  unfold step at h
  split at h
  · next c rest hp => exact .inr ⟨c, rest, hp, exec_next h⟩
  · next hp => cases h; exact .inl ⟨hp, rfl⟩

/-! ### When a command runs its rule -/

/-- An event whose condition holds acts. -/
theorem event_acts {s : State} (t : State) {ok : Bool} (h : s.resetN = true) (k : ok = true) :
    event s ok t = .next (settle t) := by
  simp [event, h, k]

/-- An answer to a live own request is handed to its owner, with the tag free. -/
theorem answerOwn_live {s : State} {m : MemTag} {u : TagUse} {p : OwnPurpose} {st : Status} {d : List Byte}
    {mine : OwnPurpose → Bool} (h : liveOwn s m u p) (hm : mine p = true) (hw : answerWf u st d = true) :
    answerOwn s m st d mine = .next (settle (ownDone (freeTag s m) u.addr p (resultFor st d))) := by
  obtain ⟨h1, h2, k, h3⟩ := h
  simp [answerOwn, ownUse, h1, h2, h3, hm, hw, ownResponse]

/-- An answer to an own request that is live no longer is dropped: its tag is free, and nothing else changes. -/
theorem answerOwn_dropped {s : State} {m : MemTag} {u : TagUse} {p : OwnPurpose} {n : Nat} {os : OwnStatus}
    {st : Status} {d : List Byte} {mine : OwnPurpose → Bool} (h1 : s.resetN = true)
    (h2 : s.traffic.tags.get m = some u) (h3 : u.holder = .own p n os) (h4 : os ≠ .live) (hm : mine p = true)
    (hw : answerWf u st d = true) : answerOwn s m st d mine = .next (settle (freeTag s m)) := by
  simp [answerOwn, ownUse, h1, h2, h3, h4, hm, hw, ownResponse]

/-- Memory's answer to a controller request in use is returned, with the tag free. -/
theorem memoryResponse_inUse {s : State} {m : MemTag} {u : TagUse} {e : InFlight} {st : Status} {d : List Byte}
    (h : answeredInUse s m u e st d) :
    exec (.memoryResponse m st d) s = .next (settle (returnResponse (freeTag s m) (ctlTagOf m) e st d)) := by
  obtain ⟨h1, h2, h3, h4, h5⟩ := h
  have h6 : (freeTag s m).traffic.inflight.get (ctlTagOf m) = some e := h4
  simp [exec, execMemoryResponse, ctlUse, h1, h2, h3, h5, takeResponse, h6]

/-- A request that the port takes is accepted, or answered at once when its tag is in use. -/
theorem controllerRequest_taken {s : State} {c : CtlTag} {b : Burst} (h1 : s.resetN = true) (h2 : s.lrstN = true)
    (h3 : s.part ≠ .loading) (h4 : s.traffic.queue.length < 16) (h5 : b.wf = true) :
    exec (.controllerRequest c b) s = .next (settle
      (if (s.traffic.inflight.get c).isSome then reuseTag s c b else acceptRequest s c b)) := by
  simp [exec, execControllerRequest, portTakes, h1, h2, h3, h4, h5]

/-- The arbiter's grant of an own request issues it. -/
theorem issueOwn_granted {s : State} {mine : OwnPurpose → Bool} {r : Requester} {p : OwnPurpose} {b : Burst}
    {m : MemTag} (h1 : s.resetN = true) (h2 : arbiterPick s = some (.own r)) (h3 : ownRequest s r = some (p, b))
    (h4 : mine p = true) (h5 : freeOwnTag s = some m) :
    issueOwn s mine =
      settle (noteIssued (issue (ownGranted s r) m b (.own p s.traffic.cycles .live)) p) := by
  simp [issueOwn, grantable, h1, h2, h3, h4, grantOwn, h5]

/-- A report raised while reports are accepted joins the queue. -/
theorem raise_accepted {s : State} (h : acceptsReports s 1) (k : ReportKind) (a b : List Byte) :
    (raise s k a b).reports = { s.reports with queue := s.reports.queue ++ [report k s.clock.now a b] } := by
  obtain ⟨h1, h2, h3⟩ := h
  have h4 : 0 < s.reports.room := h3
  simp [raise, ReportUnit.accept, h1, h2, h4, report]

/-- A report raised changes the report queue and the overflow flag alone. -/
theorem raise_queue (s : State) (k : ReportKind) (a b : List Byte) :
    (raise s k a b).reports.p = s.reports.p ∧ (raise s k a b).reports.c = s.reports.c ∧
      s.reports.queue <+: (raise s k a b).reports.queue := by
  simp only [raise, ReportUnit.accept]
  (repeat' split) <;> simp [ReportUnit.setOverflow]

end Sys2Proof.Machine
end

