-- ==== Sys2Proof/Laws/Bounds.lean ====
section
/-! SUPPORT. The operations that change the Cell Painter or the Lobby Clock keep their bounds (R61, R63, R96, R102). -/

namespace Sys2Proof.Machine

/-- The render queue keeps its bound, and no paint is added. -/
structure PaintKept (s t : State) : Prop where
  queue : s.painter.queue.length ≤ 256 → t.painter.queue.length ≤ 256
  slots : t.painter.slots.length ≤ s.painter.slots.length

theorem PaintKept.of_eq {s t : State} (h : t.painter = s.painter) : PaintKept s t := by
  constructor <;> simp [h]

theorem PaintKept.refl (s : State) : PaintKept s s := .of_eq rfl

theorem PaintKept.trans {s t u : State} (h : PaintKept s t) (k : PaintKept t u) : PaintKept s u :=
  ⟨fun x => k.queue (h.queue x), k.slots.trans h.slots⟩

theorem PaintKept.before {s s' u : State} (h : PaintKept s' u) (k : s'.painter = s.painter) : PaintKept s u :=
  (PaintKept.of_eq k).trans h

theorem PaintKept.then_eq {s t u : State} (h : PaintKept s t) (k : u.painter = t.painter) : PaintKept s u :=
  h.trans (.of_eq k)

theorem PaintKept.foldl {α : Type} (f : State → α → State) (h : ∀ s a, PaintKept s (f s a)) (l : List α) (s : State) :
    PaintKept s (l.foldl f s) := by
  induction l generalizing s with
  | nil => exact .refl s
  | cons a l ih => exact (h s a).trans (ih _)

theorem raise_paint (s : State) (k : ReportKind) (a b : List Byte) : PaintKept s (raise s k a b) := .of_eq (by simp)

theorem walkWaitList_paint (s : State) : PaintKept s (walkWaitList s) := .of_eq (by simp)

theorem updateGap_paint (s : State) : PaintKept s (updateGap s) := .of_eq (by simp)

theorem advanceTail_paint (s : State) : PaintKept s (advanceTail s) := .of_eq (by simp)

theorem skipFaulted_paint (s : State) : PaintKept s (skipFaulted s) := .of_eq (by simp)

theorem fillEntry_paint (s : State) (e : CacheIx) (x : ReadResult) : PaintKept s (fillEntry s e x) := .of_eq (by simp)

theorem settle_paint (s : State) : PaintKept s (settle s) := .of_eq (by simp)

theorem markAll_paint (s : State) : PaintKept s (markAll s) := .of_eq (by simp)

theorem enqueueCell_paint (s : State) (r : CellRef) : PaintKept s (enqueueCell s r) := by
  unfold enqueueCell
  split
  · next h => exact ⟨fun _ => by simp; omega, le_refl _⟩
  · exact ⟨id, le_refl _⟩

theorem offer_paint (s : State) (r : CellRef) (b : Bool) : PaintKept s (offer s r b) := by
  unfold offer
  dsimp only
  repeat' split
  · exact .refl s
  · exact PaintKept.trans (t := setMarks s r _) ⟨id, le_refl _⟩ (enqueueCell_paint _ _)
  · exact .refl s
  · exact enqueueCell_paint s r

theorem walkLine_paint (s : State) (p : PanelIx) (l : LineIx) : PaintKept s (walkLine s p l).1 := by
  have h := PaintKept.foldl (fun t r =>
    if leftOut t r && t.painter.queue.length < 256 then enqueueCell t r else t) (fun s r => by
      split
      · exact enqueueCell_paint s r
      · exact .refl s) (lineCells s p l) s
  unfold walkLine
  dsimp only
  split
  · exact h
  · exact h.trans ⟨id, le_refl _⟩

theorem redrawWalk_paint (s : State) : PaintKept s (redrawWalk s) := by
  have h : ∀ (l : List (PanelIx × LineIx)) (acc : State × Bool), PaintKept acc.1 (l.foldl (fun acc pl =>
      if acc.2 && lineAt acc.1.painter.redraw pl.1 pl.2 then walkLine acc.1 pl.1 pl.2 else acc) acc).1 := by
    intro l
    induction l with
    | nil => exact fun acc => .refl acc.1
    | cons a l ih =>
      intro acc
      refine PaintKept.trans ?_ (ih _)
      dsimp only
      split
      · exact walkLine_paint _ _ _
      · exact .refl _
  exact h allLines (s, true)

theorem walkIfLow_paint (s : State) : PaintKept s (walkIfLow s) := by
  unfold walkIfLow
  split
  · exact redrawWalk_paint s
  · exact .refl s

theorem setMarks_paint (s : State) (r : CellRef) (m : CellMarks) : PaintKept s (setMarks s r m) := ⟨id, le_refl _⟩

theorem spoilCell_paint (s : State) (r : CellRef) : PaintKept s (spoilCell s r) := by
  unfold spoilCell
  dsimp only
  repeat' split
  · exact setMarks_paint _ _ _
  · exact .refl s
  · exact (setMarks_paint _ _ _).trans (offer_paint _ _ _)

theorem panelWrite_paint (s : State) (p : PanelIx) (row : Nat) (cols : List Nat) :
    PaintKept s (panelWrite s p row cols) := .foldl _ spoilCell_paint _ _

theorem clearPanel_paint (s : State) (p : PanelIx) : PaintKept s (clearPanel s p) where
  queue h := (List.length_filter_le _ _).trans h
  slots := by simp [clearPanel]

theorem unknownPanel_paint (s : State) (p : PanelIx) : PaintKept s (unknownPanel s p) := ⟨id, le_refl _⟩

theorem offerPanel_paint (s : State) (p : PanelIx) : PaintKept s (offerPanel s p) :=
  .foldl _ (fun s r => offer_paint s r false) _ _

theorem computeLine_paint (s : State) (p : PanelIx) (l : LineIx) : PaintKept s (computeLine s p l) :=
  (PaintKept.foldl _ (fun s r => offer_paint s r true) _ _).before (by simp)

theorem computeLines_paint (s : State) (p : PanelIx) (sel : LineIx → Bool) : PaintKept s (computeLines s p sel) :=
  .foldl _ (fun s l => computeLine_paint s p l) _ _

theorem recomputePanel_paint (s : State) (w : Which) (p : PanelIx) : PaintKept s (recomputePanel s w p) := by
  unfold recomputePanel
  dsimp only
  split
  · exact (computeLines_paint _ _ _).before (by simp)
  · exact computeLines_paint _ _ _

theorem recompute_paint (s : State) (w : Which) (sel : PanelIx → Bool) : PaintKept s (recompute s w sel) :=
  .foldl _ (fun s p => recomputePanel_paint s w p) _ _

theorem recomputeTitle_paint (s : State) (t : TitleIx) : PaintKept s (recomputeTitle s t) :=
  .foldl _ (fun s p => computeLines_paint s p _) _ _

theorem installLayout_paint (s : State) (p : PanelIx) (ly : Layout) : PaintKept s (installLayout s p ly) := by
  unfold installLayout
  dsimp only
  refine PaintKept.trans ?_ (offerPanel_paint _ _)
  refine PaintKept.then_eq (t := unknownPanel (clearPanel { s with roster := _ } p) p) ?_ (by simp; rfl)
  exact ((clearPanel_paint _ _).trans (unknownPanel_paint _ _)).before rfl

theorem acceptLayout_paint (s : State) (p : PanelIx) (ly : Layout) : PaintKept s (acceptLayout s p ly) := by
  unfold acceptLayout
  dsimp only
  split
  · exact (installLayout_paint s p ly).trans (walkIfLow_paint _)
  · exact installLayout_paint s p ly

theorem changeSeat_paint (s : State) (i : ShowingIx) (e : Seat) : PaintKept s (changeSeat s i e) := by
  have h : ∀ t : State, t.painter = s.painter → PaintKept s
      (if fieldsChanged (s.seats.entries.get i) e then
        recomputeHalls t (hallsOf (s.seats.entries.get i) ++ hallsOf e) else t) := by
    intro t ht
    split
    · exact (recompute_paint _ _ _).before ht
    · exact .of_eq ht
  have h2 : (if countsChanged (s.seats.entries.get i) e then
      markShowing (placeSeat s i (stamp s.clock.now (s.seats.entries.get i) e)) i
      else placeSeat s i (stamp s.clock.now (s.seats.entries.get i) e)).painter = s.painter := by
    split <;> simp
  unfold changeSeat
  dsimp only
  split
  · exact (h _ h2).then_eq (by simp)
  · exact h _ h2

theorem setCounts_paint (s : State) (i : ShowingIx) (a b : Nat) : PaintKept s (setCounts s i a b) :=
  changeSeat_paint _ _ _

theorem firePhase_paint (s : State) (i : ShowingIx) (p : Phase) : PaintKept s (firePhase s i p) :=
  (changeSeat_paint _ _ _).before (by simp)

theorem handShowing_paint (s : State) (i : ShowingIx) (bs : List Byte) : PaintKept s (handShowing s i bs) := by
  unfold handShowing openShowing cancelShowing vacateShowing
  dsimp only
  repeat' split
  · exact .of_eq (by simp)
  all_goals exact (changeSeat_paint _ _ _).before (by simp)

theorem sell_paint (s : State) (k : JournalIx) (r : JournalRec) : PaintKept s (sell s k r) := by
  unfold sell
  split
  · exact (setCounts_paint _ _ _ _).before (by simp)
  · exact .of_eq (by simp)

theorem applyJournal_paint (s : State) (r : JournalRec) : PaintKept s (applyJournal s r) := by
  unfold applyJournal
  dsimp only
  split
  · exact .of_eq (by simp)
  · split
    · exact sell_paint _ _ _
    · exact (setCounts_paint _ _ _ _).before (by simp)
    · unfold hold
      dsimp only
      repeat' split
      all_goals first
        | exact .of_eq (by simp)
        | exact (setCounts_paint _ _ _ _).before (by simp)
    · unfold convert
      dsimp only
      repeat' split
      all_goals first
        | exact (sell_paint _ _ _).before (by simp)
        | exact (setCounts_paint _ _ _ _).before (by simp)
    · unfold release
      dsimp only
      repeat' split
      all_goals first
        | exact .of_eq (by simp)
        | exact (setCounts_paint _ _ _ _).before (by simp)
    · exact .refl s

theorem expireHold_paint (s : State) (h : HoldIx) : PaintKept s (expireHold s h) := by
  unfold expireHold
  dsimp only
  split
  · exact .refl s
  · exact ((setCounts_paint _ _ _ _).before (by simp)).trans (raise_paint _ _ _ _)

theorem recomputeNotices_paint (s : State) (m : BitVec 24) : PaintKept s (recomputeNotices s m) :=
  recompute_paint _ _ _

theorem endNotice_paint (s : State) (n : NoticeIx) : PaintKept s (endNotice s n) := by
  unfold endNotice
  dsimp only
  split
  · exact ((recomputeNotices_paint _ _).before (by simp)).trans (walkWaitList_paint _)
  · exact (recomputeNotices_paint _ _).before (by simp)

theorem postNotice_paint (s : State) (n : NoticeIx) (f : NoticeFields) : PaintKept s (postNotice s n f) := by
  unfold postNotice
  dsimp only
  repeat' split
  all_goals first
    | exact (recomputeNotices_paint _ _).before (by simp)
    | exact ((recomputeNotices_paint _ _).before (by simp)).trans (walkWaitList_paint _)

theorem handNotice_paint (s : State) (n : NoticeIx) (bs : List Byte) : PaintKept s (handNotice s n bs) := by
  unfold handNotice withdrawNotice
  dsimp only
  repeat' split
  · exact .of_eq (by simp)
  · exact .refl s
  · exact (endNotice_paint _ _).before (by simp)
  · exact postNotice_paint _ _ _

theorem expireNotice_paint (s : State) (n : NoticeIx) : PaintKept s (expireNotice s n) := by
  unfold expireNotice
  dsimp only
  split
  · exact .refl s
  · exact (endNotice_paint _ _).trans (raise_paint _ _ _ _)

theorem finishNotices_paint (s : State) : PaintKept s (finishNotices s) :=
  (recomputeNotices_paint _ _).before (by simp)

theorem modPaint_paint (s : State) (k : Fin 2) (f : Paint → Paint) : PaintKept s (modPaint s k f) :=
  ⟨id, by simp [modPaint]⟩

theorem enterQuiet_paint (s : State) : PaintKept s (enterQuiet s) := ⟨id, by simp [enterQuiet]⟩

theorem contain_paint (s : State) (c : Containment) : PaintKept s (contain s c) := by
  unfold contain
  split
  · exact enterQuiet_paint s
  · exact .of_eq rfl
  · exact .refl s

theorem memoryFault_paint (s : State) (r : Requester) (a : BitVec 32) (w : Bool) :
    PaintKept s (memoryFault s r a w) := (contain_paint _ _).before (by simp)

theorem reportWriteFault_paint (s : State) (b : Bool) : PaintKept s (reportWriteFault s b) := by
  unfold reportWriteFault
  exact (contain_paint _ _).before rfl

theorem secondAdvance_paint (s : State) : PaintKept s (secondAdvance s) := by
  unfold secondAdvance
  dsimp only
  repeat' split
  · exact (recompute_paint _ _ _).before rfl
  · exact .of_eq rfl
  · exact .of_eq rfl

theorem takeSecond_paint (s : State) : PaintKept s (takeSecond s) := by
  unfold takeSecond
  dsimp only
  split
  · exact .of_eq rfl
  · exact (secondAdvance_paint _).before rfl

theorem moveTime_paint (s : State) (v : LobbyTime) : PaintKept s (moveTime s v) :=
  (recompute_paint _ _ _).before (by simp)

theorem setTime_paint (s : State) (v : LobbyTime) : PaintKept s (setTime s v) :=
  (moveTime_paint _ _).before rfl

theorem takePendingSet_paint (s : State) : PaintKept s (takePendingSet s) := by
  unfold takePendingSet
  split
  · exact (moveTime_paint _ _).before rfl
  · exact .refl s

theorem takeWithheld_paint (n : Nat) (s : State) : PaintKept s (takeWithheld n s) := by
  induction n generalizing s with
  | zero => exact .refl s
  | succ n ih =>
    refine PaintKept.trans ?_ (ih _)
    exact (secondAdvance_paint _).before rfl

theorem takeItem_paint (s : State) (x : CommitItem) : PaintKept s (takeItem s x) := by
  unfold takeItem
  split
  · cases x
    case timeSet rev value =>
      unfold timeSetWritten
      dsimp only
      repeat' split
      · exact .refl s
      · exact .of_eq (by simp)
      · exact .of_eq (by simp)
      · exact (setTime_paint _ _).before rfl
    all_goals exact .of_eq (by simp)
  · exact .refl s

theorem commitsTaken_paint (s : State) (st : Status) (l : List CommitItem) : PaintKept s (commitsTaken s st l) := by
  unfold commitsTaken
  split
  · exact .foldl _ takeItem_paint l s
  · exact .refl s

theorem handLayout_paint (s : State) (p : PanelIx) (bs : List Byte) : PaintKept s (handLayout s p bs) := by
  unfold handLayout
  split
  · exact .of_eq (by simp)
  · exact acceptLayout_paint _ _ _

theorem buildLayout_paint (s : State) (p : PanelIx) (bs : List Byte) : PaintKept s (buildLayout s p bs) := by
  unfold buildLayout
  split
  · exact .of_eq (by simp)
  · exact installLayout_paint _ _ _

theorem handRecord_paint (s : State) (x : RecordId) (bs : List Byte) : PaintKept s (handRecord s x bs) := by
  unfold handRecord
  split
  · exact handShowing_paint _ _ _
  · exact handNotice_paint _ _ _
  · exact handLayout_paint _ _ _
  · exact (recomputeTitle_paint _ _).before (by simp)
  · exact .of_eq (by simp)
  · exact .of_eq (by simp)

theorem clearOwners_paint (s : State) : PaintKept s (clearOwners s) :=
  ⟨fun _ => by simp [clearOwners, Painter.initial], by simp [clearOwners, Painter.initial]⟩

theorem buildRead_paint (s : State) (b : BuildItem) (x : ReadResult) : PaintKept s (buildRead s b x) := by
  cases b
  case layouts k =>
    simp only [buildRead]
    unfold buildLayouts
    dsimp only
    split
    · unfold buildLayoutAt
      split
      · exact (buildLayout_paint _ _ _).before (by simp)
      · exact .of_eq (by simp)
    · exact .of_eq rfl
  case notices k =>
    simp only [buildRead]
    unfold buildNotices
    dsimp only
    split
    · exact (finishNotices_paint _).before (by simp [buildBlock_keeps State.painter])
    · exact .of_eq (by simp [buildBlock_keeps State.painter])
  all_goals exact .of_eq (by simp [buildRead, buildBlock_keeps State.painter])

theorem buildNext_some {s t : State} (h : buildNext s = some t) :
    ∃ d l b x, t = buildRead { s with start := { s.start with buildDone := d, buildGot := l } } b x := by
  unfold buildNext at h
  split at h
  · cases h; exact ⟨_, _, _, _, rfl⟩
  · cases h

theorem buildDrain_paint (n : Nat) (s : State) : PaintKept s (buildDrain n s) := by
  induction n generalizing s with
  | zero => exact .refl s
  | succ n ih =>
    simp only [buildDrain]
    split
    · next t ht =>
      obtain ⟨d, l, b, x, rfl⟩ := buildNext_some ht
      refine PaintKept.trans ?_ (ih _)
      exact (buildRead_paint _ _ _).before rfl
    · exact .refl s

theorem enterRunning_paint (s : State) : PaintKept s (enterRunning s) := by
  unfold enterRunning
  dsimp only
  refine PaintKept.trans ?_ (updateGap_paint _)
  exact ((takePendingSet_paint _).before (by simp)).trans (takeWithheld_paint _ _)

theorem buildReadDone_paint (s : State) (k : Nat) (x : ReadResult) : PaintKept s (buildReadDone s k x) := by
  unfold buildReadDone
  dsimp only
  split
  · refine PaintKept.trans ?_ (enterRunning_paint _)
    refine PaintKept.trans ?_ (markAll_paint _)
    exact (buildDrain_paint _ _).before rfl
  · exact (buildDrain_paint _ _).before rfl

theorem paintMemoryFault_paint (s : State) (k : Fin 2) (a : BitVec 32) (w : Bool) :
    PaintKept s (paintMemoryFault s k a w) := by
  unfold paintMemoryFault
  repeat' split
  · exact memoryFault_paint _ _ _ _
  · exact .refl s
  · exact .refl s

theorem fetchFault_paint (s : State) (r : RecordId) (k : Nat) : PaintKept s (fetchFault s r k) := by
  have h := memoryFault_paint s .commit (fetchBurst s r k).addr false
  unfold fetchFault
  dsimp only
  repeat' split
  · exact h
  · exact h.then_eq (by simp)
  · exact h.then_eq (by simp)

theorem fetchOk_paint (s : State) (r : RecordId) (bs : List Byte) : PaintKept s (fetchOk s r bs) := by
  unfold fetchOk
  split
  · exact .of_eq (by simp)
  · exact (handRecord_paint _ _ _).before (by simp)

theorem endFetch_paint (s : State) (f : Fetch) : PaintKept s (endFetch s f) := by
  unfold endFetch
  dsimp only
  split
  · exact (fetchFault_paint _ _ _).before rfl
  · exact (fetchOk_paint _ _ _).before rfl

theorem ownEffect_paint (s : State) (a : BitVec 32) (p : OwnPurpose) (x : ReadResult) :
    PaintKept s (ownEffect s a p x) := by
  unfold ownEffect
  split
  · exact .of_eq (by simp)
  · exact buildReadDone_paint _ _ _
  · unfold commitFetchDone
    dsimp only
    repeat' split
    · exact .refl s
    · exact .of_eq rfl
    · exact endFetch_paint _ _
  · unfold journalFetchDone
    dsimp only
    repeat' split
    · exact .of_eq (by simp)
    · refine PaintKept.trans ?_ (advanceTail_paint _)
      exact (applyJournal_paint _ _).before (by simp)
    · exact memoryFault_paint _ _ _ _
    · exact (memoryFault_paint _ _ _ _).trans (skipFaulted_paint _)
  · unfold writeBackDone
    split
    · exact .refl s
    · exact memoryFault_paint _ _ _ _
  · unfold glyphReadDone
    dsimp only
    repeat' split
    · exact modPaint_paint _ _ _
    · exact paintMemoryFault_paint _ _ _ _
    · exact (paintMemoryFault_paint _ _ _ _).trans (modPaint_paint _ _ _)
  · unfold rowWriteDone
    dsimp only
    repeat' split
    · exact modPaint_paint _ _ _
    · exact paintMemoryFault_paint _ _ _ _
    · exact (paintMemoryFault_paint _ _ _ _).trans (modPaint_paint _ _ _)
  · unfold glyphFetchDone
    dsimp only
    repeat' split
    · exact .of_eq (by simp)
    · exact memoryFault_paint _ _ _ _
    · exact (memoryFault_paint _ _ _ _).trans (fillEntry_paint _ _ _)
  · unfold reportRecordDone
    split
    · exact .of_eq rfl
    · exact reportWriteFault_paint _ _
  · unfold reportHeaderDone
    split
    · exact .refl s
    · exact reportWriteFault_paint _ _

theorem ownDone_paint (s : State) (a : BitVec 32) (p : OwnPurpose) (x : ReadResult) :
    PaintKept s (ownDone s a p x) := by
  unfold ownDone
  split
  · exact ownEffect_paint _ _ _ _
  · exact .refl s

theorem noteIssued_paint (s : State) (p : OwnPurpose) : PaintKept s (noteIssued s p) := by
  cases p
  case glyphRead => exact (modPaint_paint _ _ _).before rfl
  case rowWrite => exact (modPaint_paint _ _ _).before rfl
  all_goals exact .of_eq rfl

theorem handOff_paint (s : State) (e : InFlight) : PaintKept s (handOff s e) := by
  unfold handOff
  repeat' split
  · exact panelWrite_paint _ _ _ _
  all_goals exact .of_eq (by simp)

theorem giveUpPaint_paint (s : State) (r : CellRef) : PaintKept s (giveUpPaint s r) :=
  PaintKept.trans (t := clearPainting s r none) ⟨id, le_refl _⟩ (offer_paint _ _ _)

theorem freeSlots_paint (s : State) : PaintKept s (freeSlots s) := by
  have h : PaintKept s { s with painter := { s.painter with slots := [] } } := ⟨id, Nat.zero_le _⟩
  have k := PaintKept.foldl (fun t (p : Paint) => giveUpPaint t p.ref) (fun t p => giveUpPaint_paint t p.ref)
    s.painter.slots { s with painter := { s.painter with slots := [] } }
  unfold freeSlots
  exact h.trans k

theorem endPaint_paint (s : State) (p : Paint) : PaintKept s (endPaint s p) := by
  unfold endPaint
  repeat' split
  · exact giveUpPaint_paint _ _
  · exact ⟨id, le_refl _⟩
  · exact giveUpPaint_paint _ _
  · exact PaintKept.trans (t := clearPainting s p.ref _) ⟨id, le_refl _⟩ (offer_paint _ _ _)

/-- A take adds at most one paint. -/
theorem takeCell_paint (s : State) (r : CellRef) :
    (s.painter.queue.length ≤ 256 → (takeCell s r).painter.queue.length ≤ 256) ∧
      (takeCell s r).painter.slots.length ≤ s.painter.slots.length + 1 := by
  have h : ∀ t : State, t.painter.queue = s.painter.queue.tail →
      t.painter.slots.length ≤ s.painter.slots.length + 1 →
      (s.painter.queue.length ≤ 256 → (walkIfLow t).painter.queue.length ≤ 256) ∧
        (walkIfLow t).painter.slots.length ≤ s.painter.slots.length + 1 := by
    intro t h1 h2
    have h3 := walkIfLow_paint t
    refine ⟨fun h4 => h3.queue ?_, h3.slots.trans h2⟩
    rw [h1, List.length_tail]
    omega
  unfold takeCell
  dsimp only
  split
  · exact h _ rfl (by simp [startPaint, leaveQueue, setMarks])
  · exact h _ rfl (by simp [leaveQueue, setMarks])

/-! ### The Lobby Clock -/

/-- The clock keeps its bounds. -/
structure ClockKept (s t : State) : Prop where
  sub : s.clock.sub < 100 → t.clock.sub < 100
  withheld : s.clock.withheld ≤ 255 → t.clock.withheld ≤ 255

theorem ClockKept.of_eq {s t : State} (h : t.clock = s.clock) : ClockKept s t := by
  constructor <;> simp [h]

theorem ClockKept.refl (s : State) : ClockKept s s := .of_eq rfl

theorem ClockKept.trans {s t u : State} (h : ClockKept s t) (k : ClockKept t u) : ClockKept s u :=
  ⟨fun x => k.sub (h.sub x), fun x => k.withheld (h.withheld x)⟩

theorem ClockKept.before {s s' u : State} (h : ClockKept s' u) (k : s'.clock = s.clock) : ClockKept s u :=
  (ClockKept.of_eq k).trans h

theorem ClockKept.foldl {α : Type} (f : State → α → State) (h : ∀ s a, ClockKept s (f s a)) (l : List α) (s : State) :
    ClockKept s (l.foldl f s) := by
  induction l generalizing s with
  | nil => exact .refl s
  | cons a l ih => exact (h s a).trans (ih _)

/-- What a second advance does to the clock. -/
@[simp] theorem secondAdvance_clock (s : State) :
    (secondAdvance s).clock = { s.clock with now := s.clock.now + 1 } := by
  unfold secondAdvance
  dsimp only
  repeat' split
  all_goals simp

/-- What setting lobby time does to the clock (R71, R72). -/
@[simp] theorem moveTime_clock (s : State) (v : LobbyTime) :
    (moveTime s v).clock = { s.clock with now := v, sub := 0 } := by
  simp [moveTime]

/-- What a time set does to the clock (R71). -/
@[simp] theorem setTime_clock (s : State) (v : LobbyTime) :
    (setTime s v).clock = { s.clock with now := v, sub := 0, secondsDue := 0 } := by
  simp [setTime]

@[simp] theorem takePendingSet_clock (s : State) :
    (takePendingSet s).clock.pendingSet = none ∧ (takePendingSet s).clock.withheld = s.clock.withheld := by
  unfold takePendingSet
  split
  · simp
  · simp_all

/-- The withheld seconds taken one after another leave as many fewer (R63). -/
@[simp] theorem takeWithheld_clock (n : Nat) (s : State) :
    (takeWithheld n s).clock.withheld = s.clock.withheld - n ∧ (takeWithheld n s).clock.sub = s.clock.sub ∧
      (takeWithheld n s).clock.pendingSet = s.clock.pendingSet := by
  induction n generalizing s with
  | zero => simp [takeWithheld]
  | succ n ih =>
    simp only [takeWithheld]
    obtain ⟨h1, h2, h3⟩ := ih (secondAdvance { s with clock := { s.clock with withheld := s.clock.withheld - 1 } })
    rw [h1, h2, h3]
    refine ⟨?_, by simp, by simp⟩
    simp only [secondAdvance_clock]
    omega

theorem clockTick_clock (s : State) : ClockKept s { s with clock := s.clock.tick } := by
  constructor
  · intro h
    simp only [Clock.tick]
    split
    · simp
    · simp; omega
  · intro h
    simp only [Clock.tick]
    split <;> exact h

theorem takeSecond_clock (s : State) : ClockKept s (takeSecond s) := by
  unfold takeSecond
  dsimp only
  split
  · exact ⟨fun h => h, fun _ => by simp [withholdSecond]⟩
  · exact ⟨fun h => by simpa using h, fun h => by simpa using h⟩

theorem setTime_clockKept (s : State) (v : LobbyTime) : ClockKept s (setTime s v) :=
  ⟨fun _ => by simp, fun h => by simpa using h⟩

theorem takePendingSet_clockKept (s : State) : ClockKept s (takePendingSet s) := by
  unfold takePendingSet
  split
  · exact ⟨fun _ => by simp, fun h => by simpa using h⟩
  · exact .refl s

theorem beginRestart_clock (s : State) : ClockKept s (beginRestart s) :=
  ⟨fun h => by simpa [beginRestart] using h, fun _ => by simp [beginRestart]⟩

theorem takeItem_clock (s : State) (x : CommitItem) : ClockKept s (takeItem s x) := by
  unfold takeItem
  split
  · cases x
    case restart v =>
      simp only [restartWritten, requestRestart]
      repeat' split
      · exact .refl s
      · exact .of_eq rfl
      · exact .of_eq rfl
      · exact (beginRestart_clock _).before rfl
      · exact (beginRestart_clock _).before rfl
    case timeSet rev value =>
      unfold timeSetWritten
      dsimp only
      repeat' split
      · exact .refl s
      · exact .of_eq (by simp)
      · exact ⟨fun _ => by simp [keepTimeSet], fun _ => by simp [keepTimeSet]⟩
      · exact (setTime_clockKept _ _).before rfl
    all_goals exact .of_eq (by simp)
  · exact .refl s

theorem commitsTaken_clock (s : State) (st : Status) (l : List CommitItem) : ClockKept s (commitsTaken s st l) := by
  unfold commitsTaken
  split
  · exact .foldl _ takeItem_clock l s
  · exact .refl s

theorem takeValues_clock (s : State) (bs : List Byte) : ClockKept s (takeValues s bs) := by
  constructor <;> intro h <;> simp only [takeValues, Clock.loaded, Clock.started] <;> split <;> simp_all

theorem acceptLoad_clock (s : State) (bs : List Byte) : ClockKept s (acceptLoad s bs) := by
  unfold acceptLoad
  split
  · exact ⟨fun h => by simpa using (takeValues_clock s bs).sub h, fun h => by simpa using (takeValues_clock s bs).withheld h⟩
  · exact .of_eq rfl

theorem reload_clock (s : State) : ClockKept s (reload s) := by
  unfold reload
  split
  · exact .of_eq (by simp)
  · exact ⟨fun h => by simpa [beginBuild] using (takeValues_clock s _).sub h,
      fun h => by simpa [beginBuild] using (takeValues_clock s _).withheld h⟩
  · exact .refl s

theorem refuseLoad_clock (s : State) : ClockKept s (refuseLoad s) :=
  ⟨fun h => by simpa [refuseLoad, Clock.disposed] using h, fun _ => by simp [refuseLoad, Clock.disposed]⟩

theorem setupReadDone_clock (s : State) (k : Nat) (x : ReadResult) : ClockKept s (setupReadDone s k x) := by
  unfold setupReadDone
  dsimp only
  repeat' split
  · exact .of_eq rfl
  · exact (acceptLoad_clock _ _).before rfl
  · exact (refuseLoad_clock _).before rfl
  · exact (refuseLoad_clock _).before rfl

theorem enterRunning_clock (s : State) : ClockKept s (enterRunning s) := by
  unfold enterRunning
  dsimp only
  constructor
  · intro h
    have := ((takePendingSet_clockKept (cueAll (raise { s with
      part := .running, start := { s.start with stage := .wait } } .ready [] []))).before (s := s) (by simp)).sub h
    simpa using this
  · intro h
    simp

theorem buildReadDone_clock (s : State) (k : Nat) (x : ReadResult) : ClockKept s (buildReadDone s k x) := by
  unfold buildReadDone
  dsimp only
  split
  · exact (enterRunning_clock _).before (by simp)
  · exact .of_eq (by simp)

theorem ownDone_clock (s : State) (a : BitVec 32) (p : OwnPurpose) (x : ReadResult) :
    ClockKept s (ownDone s a p x) := by
  unfold ownDone ownEffect
  split
  · split
    · exact setupReadDone_clock _ _ _
    · exact buildReadDone_clock _ _ _
    all_goals exact .of_eq (by simp)
  · exact .refl s

/-! ### The law of capacities -/

/-- What an operation must keep, besides the forward queue and the grant count. -/
theorem CapacityLaw.keep {s t : State} (h : CapacityLaw s) (h1 : t.traffic.queue.length ≤ 16)
    (h2 : t.traffic.grants ≤ 8) (hp : PaintKept s t) (hc : ClockKept s t) : CapacityLaw t :=
  ⟨h1, h2, hc.sub h.sub, hc.withheld h.withheld, hp.queue h.render, hp.slots.trans h.slots⟩

/-- An operation that is not the port's own. -/
theorem CapacityLaw.quiet {s t : State} (h : CapacityLaw s) (hq : Quieter s t) (hp : PaintKept s t)
    (hc : ClockKept s t) : CapacityLaw t :=
  h.keep (by rw [hq.queue]; exact h.queue) (by rw [hq.grants]; exact h.grants) hp hc

end Sys2Proof.Machine
end

