-- ==== Sys2Proof/Laws/SeatLaws.lean ====
section
/-! SUPPORT. The sellable counts (R31) and the laws of seats and holds (R20, R28, R54) through each operation on seat
entries and on the Hold Table. -/

namespace Sys2Proof.Machine

/-! ### Counting over an index range of which one place has changed -/

theorem countP_change {α : Type} [DecidableEq α] (f g : α → Bool) (a : α) (hfg : ∀ b, b ≠ a → f b = g b) (l : List α)
    (hn : l.Nodup) (ha : a ∈ l) :
    l.countP f + (if g a then 1 else 0) = l.countP g + (if f a then 1 else 0) := by
  induction l with
  | nil => simp at ha
  | cons b l ih =>
    rw [List.nodup_cons] at hn
    simp only [List.countP_cons]
    by_cases h : b = a
    · subst h
      have : l.countP f = l.countP g :=
        List.countP_congr fun c hc => by rw [hfg c (fun e => hn.1 (e ▸ hc))]
      omega
    · have hal : a ∈ l := by simpa [Ne.symm h] using ha
      have := ih hn.2 hal
      rw [hfg b h]
      omega

theorem sum_change {α : Type} [DecidableEq α] (f g : α → Nat) (a : α) (hfg : ∀ b, b ≠ a → f b = g b) (l : List α)
    (hn : l.Nodup) (ha : a ∈ l) : (l.map f).sum + g a = (l.map g).sum + f a := by
  induction l with
  | nil => simp at ha
  | cons b l ih =>
    rw [List.nodup_cons] at hn
    simp only [List.map_cons, List.sum_cons]
    by_cases h : b = a
    · subst h
      have : l.map f = l.map g :=
        List.map_congr_left fun c hc => hfg c (fun e => hn.1 (e ▸ hc))
      rw [this]
      omega
    · have hal : a ∈ l := by simpa [Ne.symm h] using ha
      have := ih hn.2 hal
      rw [hfg b h]
      omega

/-! ### Sellable counts -/

/-- The counts after a standing has changed from `a` to `b`. -/
theorem sellableAfter_get (v : Vector Nat 64) (a b : Option TitleIx) (t : TitleIx)
    (h : a = some t → 0 < v.get t) :
    (sellableAfter v a b).get t + (if a = some t then 1 else 0) = v.get t + (if b = some t then 1 else 0) := by
  unfold sellableAfter
  split
  · next e => subst e; rfl
  · next e =>
    cases a <;> cases b <;> simp only [get_modAt, Option.some.injEq] at *
    · rename_i y
      by_cases hy : t = y <;> simp [hy, eq_comm]
    · rename_i y
      by_cases hy : t = y
      · subst hy; have := h rfl; simp; omega
      · simp [hy, Ne.symm hy]
    · rename_i y z
      by_cases hy : t = y <;> by_cases hz : t = z
      · exact absurd (hy.symm.trans hz) e
      · subst hy; have := h rfl; simp [hz, Ne.symm hz]; omega
      · subst hz; simp [hy, Ne.symm hy]
      · simp [hy, hz, Ne.symm hy, Ne.symm hz]

/-- The law reads the Seat Unit alone. -/
theorem SellableLaw.of_seats {s t : State} (h : SellableLaw s) (k : t.seats = s.seats) : SellableLaw t := by
  intro x
  have := h x
  simp only [standing, k] at *
  exact this

/-- Putting an entry in place keeps the counts right (R31). -/
theorem SellableLaw.placeSeat {s : State} (h : SellableLaw s) (i : ShowingIx) (e : Seat) :
    SellableLaw (placeSeat s i e) := by
  intro t
  have hc := countP_change (fun j => standsFor ((Machine.placeSeat s i e).seats.entries.get j) == some t)
    (fun j => standsFor (s.seats.entries.get j) == some t) i
    (fun j hj => by simp [Machine.placeSeat, hj]) (List.finRange 256) (List.nodup_finRange 256) (List.mem_finRange i)
  have hs : (Machine.placeSeat s i e).seats.entries.get i = e := by simp [Machine.placeSeat]
  have hg := sellableAfter_get s.seats.sellable (standsFor (s.seats.entries.get i)) (standsFor e) t (by
    intro hi
    rw [h t]
    unfold standing
    rw [List.countP_pos_iff]
    exact ⟨i, List.mem_finRange i, by simp [hi]⟩)
  have hl := h t
  simp only [standing] at hl ⊢
  simp only [hs, beq_iff_eq] at hc hg
  show (sellableAfter _ _ _).get t = _
  omega

/-- What a change of an entry does to the Seat Unit. -/
theorem changeSeat_seats (s : State) (i : ShowingIx) (e : Seat) :
    (changeSeat s i e).seats = (placeSeat s i (stamp s.clock.now (s.seats.entries.get i) e)).seats := by
  unfold changeSeat
  dsimp only
  (repeat' split) <;> simp

theorem SellableLaw.changeSeat {s : State} (h : SellableLaw s) (i : ShowingIx) (e : Seat) :
    SellableLaw (changeSeat s i e) := (h.placeSeat i _).of_seats (changeSeat_seats s i e)

@[simp] theorem changeSeat_get_self (s : State) (i : ShowingIx) (e : Seat) :
    (changeSeat s i e).seats.entries.get i = stamp s.clock.now (s.seats.entries.get i) e := by
  rw [changeSeat_seats]
  simp [placeSeat]

@[simp] theorem changeSeat_get_ne (s : State) {i j : ShowingIx} (h : j ≠ i) (e : Seat) :
    (changeSeat s i e).seats.entries.get j = s.seats.entries.get j := by
  rw [changeSeat_seats]
  simp [placeSeat, h]

/-- The stamp writes the time of last change alone. -/
@[simp] theorem stamp_fields (now : LobbyTime) (a b : Seat) :
    (stamp now a b).phase = b.phase ∧ (stamp now a b).title = b.title ∧ (stamp now a b).hall = b.hall ∧
      (stamp now a b).start = b.start ∧ (stamp now a b).capacity = b.capacity ∧ (stamp now a b).sold = b.sold ∧
      (stamp now a b).held = b.held ∧ (stamp now a b).left = b.left := by
  unfold stamp
  split <;> simp

/-! ### What the holds hold -/

/-- The seats that an entry of the Hold Table holds of a showing. -/
def seatsOf (x : Option Hold) (i : ShowingIx) : Nat :=
  match x with
  | some x => if x.showing = i then x.seats else 0
  | none => 0

theorem heldBy_eq (s : State) (i : ShowingIx) :
    heldBy s i = ((List.finRange 64).map fun h => seatsOf (s.holds.get h) i).sum := rfl

theorem heldBy_of_holds {s t : State} (h : t.holds = s.holds) (i : ShowingIx) : heldBy t i = heldBy s i := by
  simp only [heldBy_eq, h]

/-- One entry of the Hold Table replaced. -/
theorem heldBy_setAt {s t : State} (h : HoldIx) (x : Option Hold) (k : t.holds = setAt s.holds h x) (i : ShowingIx) :
    heldBy t i + seatsOf (s.holds.get h) i = heldBy s i + seatsOf x i := by
  have := sum_change (fun g => seatsOf (t.holds.get g) i) (fun g => seatsOf (s.holds.get g) i) h
    (fun g hg => by simp [k, hg]) (List.finRange 64) (List.nodup_finRange 64) (List.mem_finRange h)
  simpa [heldBy_eq, k] using this

/-- A showing's holds released (R56). -/
theorem heldBy_release {s t : State} (i j : ShowingIx)
    (k : t.holds = mapTab s.holds fun h => if holdNames h i then none else h) :
    heldBy t j = if j = i then 0 else heldBy s j := by
  simp only [heldBy_eq, k, get_mapTab]
  split
  · next e =>
    subst e
    rw [List.sum_eq_zero]
    intro x hx
    rw [List.mem_map] at hx
    obtain ⟨h, _, rfl⟩ := hx
    cases hh : s.holds.get h with
    | none => simp [holdNames, seatsOf]
    | some y =>
      by_cases hy : y.showing = j <;> simp [holdNames, seatsOf, hy]
  · next e =>
    congr 1
    apply List.map_congr_left
    intro h _
    cases hh : s.holds.get h with
    | none => simp [holdNames]
    | some y =>
      by_cases hy : y.showing = i
      · simp [holdNames, seatsOf, hy, Ne.symm e]
      · simp [holdNames, hy]

/-- One live hold's seats are among what the holds of its showing hold. -/
theorem seatsOf_le_heldBy (s : State) (h : HoldIx) (i : ShowingIx) : seatsOf (s.holds.get h) i ≤ heldBy s i := by
  rw [heldBy_eq]
  exact List.single_le_sum (by simp) _ (List.mem_map.mpr ⟨h, List.mem_finRange h, rfl⟩)

/-! ### The law of seats -/

/-- The law reads the seat entries, the holds, the due entries' targets, and where a load stands. -/
theorem SeatLaw.of_eq {s t : State} (h : SeatLaw s) (h1 : t.seats.entries = s.seats.entries) (h2 : t.holds = s.holds)
    (h3 : ∀ e ∈ t.due.list ++ t.due.batch, ∀ p, e.target = some p → p = .lastCall ∨ p = .started ∨ p = .closed)
    (h4 : t.resetN = false ∨ t.part = .loading ∨ (t.rebuilding = true ∧ t.start.stage = .build) →
      ∀ h, t.holds.get h = none) : SeatLaw t where
  sound i := by rw [h1]; exact h.sound i
  held i := by rw [h1, heldBy_of_holds h2]; exact h.held i
  gate i g x hx hi := by rw [h1]; rw [h2] at hx; exact h.gate i g x hx hi
  vacant i hi := by rw [h1] at hi ⊢; exact h.vacant i hi
  targets := h3
  loads := h4

/-- An operation that touches nothing the law reads. -/
theorem SeatLaw.same {s t : State} (h : SeatLaw s) (h1 : t.seats = s.seats) (h2 : t.holds = s.holds)
    (h3 : t.due = s.due) (h4 : t.resetN = s.resetN) (h5 : t.part = s.part) (h6 : t.start.stage = s.start.stage) :
    SeatLaw t :=
  h.of_eq (by rw [h1]) h2 (by rw [h3]; exact h.targets) (by
    simp only [State.rebuilding, h2, h4, h5, h6]; exact h.loads)

/-- An entry replaced by one that keeps the law, the holds as they are. -/
theorem SeatLaw.replace {s t : State} (h : SeatLaw s) (i : ShowingIx) (e : Seat)
    (h1 : t.seats.entries = setAt s.seats.entries i e) (h2 : t.holds = s.holds) (h3 : t.due = s.due)
    (h4 : t.resetN = s.resetN) (h5 : t.part = s.part) (h6 : t.start.stage = s.start.stage) (hs : e.sound)
    (hh : e.held = heldBy s i) (hg : passesGate (s.seats.entries.get i).phase = true → passesGate e.phase = true)
    (hv : e.phase = .vacant → e.capacity = 0) : SeatLaw t where
  sound j := by
    rw [h1, get_setAt]; split
    · exact hs
    · exact h.sound j
  held j := by
    rw [h1, get_setAt, heldBy_of_holds h2]; split
    · next k => rw [hh, k]
    · exact h.held j
  gate j g x hx hj := by
    rw [h2] at hx
    have := h.gate j g x hx hj
    rw [h1, get_setAt]; split
    · next k => exact hg (k ▸ this)
    · exact this
  vacant j hj := by
    rw [h1, get_setAt] at hj ⊢; split at hj
    · next k => rw [if_pos k]; exact hv hj
    · next k => rw [if_neg k]; exact h.vacant j hj
  targets := by rw [h3]; exact h.targets
  loads := by simp only [State.rebuilding, h2, h4, h5, h6]; exact h.loads

/-- A recounted entry whose seats fit its capacity is sound. -/
theorem Seat.recount_sound (e : Seat) (h : e.sold + e.held ≤ e.capacity) : e.recount.sound := by
  constructor
  · exact h
  · rfl

theorem setCounts_entries (s : State) (i : ShowingIx) (a b : Nat) :
    (setCounts s i a b).seats.entries = setAt s.seats.entries i (stamp s.clock.now (s.seats.entries.get i)
      ({ s.seats.entries.get i with sold := a, held := b } : Seat).recount) := by
  simp [setCounts, changeSeat_seats, placeSeat]

/-- New counts that fit, with held as it was, keep the law (R49, R50). -/
theorem SeatLaw.setCounts {s : State} (h : SeatLaw s) (i : ShowingIx) (a : Nat)
    (hs : a + (s.seats.entries.get i).held ≤ (s.seats.entries.get i).capacity) :
    SeatLaw (setCounts s i a (s.seats.entries.get i).held) := by
  refine h.replace i _ (setCounts_entries _ _ _ _) (by simp) (by simp) (by simp) (by simp) (by simp) ?_ ?_ ?_ ?_
  · have := Seat.recount_sound { s.seats.entries.get i with sold := a } hs
    simpa [Seat.sound, Seat.recount] using this
  · simpa [Seat.recount] using h.held i
  · simp [Seat.recount]
  · simpa [Seat.recount] using h.vacant i

/-- An entry and the holds of its showing replaced together. -/
theorem SeatLaw.exchange {s t : State} (h : SeatLaw s) (i : ShowingIx) (e : Seat)
    (h1 : t.seats.entries = setAt s.seats.entries i e) (hs : e.sound) (hv : e.phase = .vacant → e.capacity = 0)
    (hi : e.held = heldBy t i) (ho : ∀ j, j ≠ i → heldBy t j = heldBy s j)
    (hg : ∀ g x, t.holds.get g = some x →
      (x.showing = i ∧ passesGate e.phase = true) ∨ (x.showing ≠ i ∧ s.holds.get g = some x))
    (h3 : ∀ e ∈ t.due.list ++ t.due.batch, ∀ p, e.target = some p → p = .lastCall ∨ p = .started ∨ p = .closed)
    (h4 : t.resetN = false ∨ t.part = .loading ∨ (t.rebuilding = true ∧ t.start.stage = .build) →
      ∀ h, t.holds.get h = none) : SeatLaw t where
  sound j := by
    rw [h1, get_setAt]; split
    · exact hs
    · exact h.sound j
  held j := by
    rw [h1, get_setAt]; split
    · next k => rw [k]; exact hi
    · next k => rw [ho j k]; exact h.held j
  gate j g x hx hj := by
    rw [h1, get_setAt]
    rcases hg g x hx with ⟨h5, h6⟩ | ⟨h5, h6⟩
    · rw [if_pos (by rw [← hj, h5])]; exact h6
    · rw [if_neg (by rw [← hj]; exact h5)]; exact h.gate j g x h6 hj
  vacant j hj := by
    rw [h1, get_setAt] at hj ⊢; split at hj
    · next k => rw [if_pos k]; exact hv hj
    · next k => rw [if_neg k]; exact h.vacant j hj
  targets := h3
  loads := h4

/-! ### Due entries -/

/-- The targets of due entries, all of them phases that have an entry time. -/
def TargetsOk (d : DueList) : Prop :=
  ∀ e ∈ d.list ++ d.batch, ∀ p, e.target = some p → p = .lastCall ∨ p = .started ∨ p = .closed

theorem TargetsOk.of_subset {d d' : DueList} (h : TargetsOk d)
    (k : ∀ e ∈ d'.list ++ d'.batch, e ∈ d.list ++ d.batch) : TargetsOk d' :=
  fun e he => h e (k e he)

theorem TargetsOk.remove {d : DueList} (h : TargetsOk d) (k : DueKey) : TargetsOk (d.remove k) :=
  h.of_subset fun e he => by
    simp only [DueList.remove, withoutKey, List.mem_append, List.mem_filter] at he ⊢
    rcases he with he | he
    · exact .inl he.1
    · exact .inr he.1

theorem TargetsOk.insert {d : DueList} (h : TargetsOk d) (now : LobbyTime) (e : DueEntry)
    (k : ∀ p, e.target = some p → p = .lastCall ∨ p = .started ∨ p = .closed) : TargetsOk (d.insert now e) := by
  unfold DueList.insert
  dsimp only
  split
  · exact h
  · intro x hx
    simp only [insertDueBy, List.mem_append, mem_insertBy] at hx
    rcases hx with (rfl | hx) | hx
    · exact k
    · exact h.remove e.key x (by simp [hx])
    · exact h.remove e.key x (by simp [hx])

theorem TargetsOk.fire {d : DueList} (h : TargetsOk d) (now : LobbyTime) (n : Nat) : TargetsOk (d.fire now n) :=
  h.of_subset fun e he => by
    simp only [DueList.fire, List.mem_append, List.mem_filter] at he ⊢
    tauto

theorem TargetsOk.jumpTo {d : DueList} (h : TargetsOk d) (a b : LobbyTime) : TargetsOk (d.jumpTo a b) := by
  unfold DueList.jumpTo
  split
  · exact h.fire _ _
  · intro e he
    simp only [DueList.setBack, List.mem_append, List.mem_map] at he
    rcases he with ⟨x, hx, rfl⟩ | he
    · exact fun p hp => h x (by simp [hx]) p hp
    · exact h e (by simp [he])

theorem SeatLaw.targetsOk {s : State} (h : SeatLaw s) : TargetsOk s.due := h.targets

/-- The chain of R22 ends in a phase that passes the gate, or in CLOSED. -/
theorem phaseChain_gate (c : Setup) (now start : LobbyTime) (p : Phase)
    (hp : p = .onSale ∨ p = .lastCall ∨ p = .started ∨ p = .closed) :
    (phaseChain c now start p).1 ≠ .closed → passesGate (phaseChain c now start p).1 = true := by
  rcases hp with rfl | rfl | rfl | rfl <;> simp only [phaseChain, chainFromOnSale, chainFromLastCall, chainFromStarted] <;>
    (repeat' split) <;> simp [passesGate]

/-- The entry that the chain of R22 leaves has a target with an entry time. -/
theorem phaseChain_target (c : Setup) (now start : LobbyTime) (p : Phase) (x : Phase × LobbyTime)
    (h : (phaseChain c now start p).2 = some x) : x.1 = .lastCall ∨ x.1 = .started ∨ x.1 = .closed := by
  cases p <;> simp only [phaseChain, chainFromOnSale, chainFromLastCall, chainFromStarted] at h <;>
    (repeat' split at h) <;> simp_all <;> subst h <;> simp

theorem phaseFromNow_gate (c : Setup) (now start : LobbyTime) :
    phaseFromNow c now start = .onSale ∨ phaseFromNow c now start = .lastCall ∨
      phaseFromNow c now start = .started ∨ phaseFromNow c now start = .closed := by
  unfold phaseFromNow
  (repeat' split) <;> simp

/-! ### Phases (R22, R28) -/

/-- What entering a phase does: the chain's phase, with held 0 and the holds released if it is CLOSED, and the other
fields as they were. -/
theorem enterPhase_seat (s : State) (i : ShowingIx) (e : Seat) (p : Phase) :
    (enterPhase s i e p).2 = ({ e with
      phase := (phaseChain s.setup s.clock.now e.start p).1
      held := if (phaseChain s.setup s.clock.now e.start p).1 = .closed then 0 else e.held } : Seat).recount := by
  unfold enterPhase
  dsimp only
  split
  · next h => simp [h]
  · simp

theorem enterPhase_holds (s : State) (i : ShowingIx) (e : Seat) (p : Phase) :
    (enterPhase s i e p).1.holds = if (phaseChain s.setup s.clock.now e.start p).1 = .closed then
      mapTab s.holds fun h => if holdNames h i then none else h else s.holds := by
  unfold enterPhase
  dsimp only
  split
  · rfl
  · split <;> simp

theorem enterPhase_targets (s : State) (i : ShowingIx) (e : Seat) (p : Phase) (h : TargetsOk s.due) :
    TargetsOk (enterPhase s i e p).1.due := by
  unfold enterPhase
  dsimp only
  split
  · refine (h.remove (.phase i)).of_subset fun x hx => ?_
    simp only [releaseHolds, removeDue, List.mem_append, List.mem_filter] at hx ⊢
    tauto
  · split
    · next d hd =>
      refine (h.remove (.phase i)).insert _ _ fun q hq => ?_
      cases hq
      exact phaseChain_target _ _ _ _ _ hd
    · exact h.remove (.phase i)

/-- A showing put into the phase where the chain ends keeps the law, when its seats fit its capacity. -/
theorem SeatLaw.enterPhase {s t : State} (h : SeatLaw s) (i : ShowingIx) (e : Seat) (p : Phase)
    (hp : p = .onSale ∨ p = .lastCall ∨ p = .started ∨ p = .closed) (hs : e.sold + e.held ≤ e.capacity)
    (hh : e.held = heldBy s i) (f : Seat)
    (hf : t.seats.entries = setAt s.seats.entries i f)
    (hfe : f.phase = (enterPhase s i e p).2.phase ∧ f.capacity = (enterPhase s i e p).2.capacity ∧
      f.sold = (enterPhase s i e p).2.sold ∧ f.held = (enterPhase s i e p).2.held ∧
      f.left = (enterPhase s i e p).2.left)
    (h2 : t.holds = (Machine.enterPhase s i e p).1.holds) (h3 : t.due = (Machine.enterPhase s i e p).1.due)
    (h4 : t.resetN = s.resetN) (h5 : t.part = s.part) (h6 : t.start.stage = s.start.stage) : SeatLaw t := by
  have hgate := phaseChain_gate s.setup s.clock.now e.start p hp
  rw [enterPhase_holds] at h2
  rw [enterPhase_seat] at hfe
  simp only [Seat.recount] at hfe
  obtain ⟨f1, f2, f3, f4, f5⟩ := hfe
  have hl : t.resetN = false ∨ t.part = .loading ∨ (t.rebuilding = true ∧ t.start.stage = .build) →
      ∀ h, t.holds.get h = none := by
    intro hc g
    simp only [State.rebuilding, h4, h5, h6] at hc
    have := h.loads hc g
    rw [h2]; split
    · simp [this]
    · exact this
  by_cases hc : (phaseChain s.setup s.clock.now e.start p).1 = .closed
  · rw [if_pos hc] at h2 f4 f5
    have hb : heldBy t i = 0 := by rw [heldBy_release i i h2, if_pos rfl]
    refine h.exchange i f hf ?_ ?_ ?_ ?_ ?_ ?_ hl
    · constructor <;> omega
    · intro hv; rw [f1, hc] at hv; cases hv
    · rw [hb, f4]
    · intro j hj; rw [heldBy_release i j h2, if_neg hj]
    · intro g x hx
      rw [h2, get_mapTab] at hx
      split at hx
      · cases hx
      · next hn =>
        refine .inr ⟨?_, hx⟩
        rintro rfl
        simp [hx, holdNames] at hn
    · rw [h3]; exact enterPhase_targets _ _ _ _ h.targets
  · rw [if_neg hc] at h2 f4 f5
    refine h.exchange i f hf ?_ ?_ ?_ ?_ ?_ ?_ hl
    · constructor <;> omega
    · intro hv; have := hgate hc; rw [← f1, hv] at this; cases this
    · rw [f4, hh, heldBy_of_holds h2]
    · exact fun j _ => heldBy_of_holds h2 j
    · intro g x hx
      rw [h2] at hx
      by_cases hx' : x.showing = i
      · exact .inl ⟨hx', by rw [f1]; exact hgate hc⟩
      · exact .inr ⟨hx', hx⟩
    · rw [h3]; exact enterPhase_targets _ _ _ _ h.targets

theorem changeSeat_entries (s : State) (i : ShowingIx) (e : Seat) :
    (changeSeat s i e).seats.entries =
      setAt s.seats.entries i (stamp s.clock.now (s.seats.entries.get i) e) := by
  simp [changeSeat_seats, placeSeat]

/-- A PHASE firing keeps the law (R23). -/
theorem SeatLaw.firePhase {s : State} (h : SeatLaw s) (i : ShowingIx) (p : Phase)
    (hp : p = .onSale ∨ p = .lastCall ∨ p = .started ∨ p = .closed) : SeatLaw (firePhase s i p) := by
  refine h.enterPhase i (s.seats.entries.get i) p hp (h.sound i).1 (h.held i) _
    (by simp only [Machine.firePhase, changeSeat_entries, enterPhase_keeps]; rfl) ?_ ?_ ?_ ?_ ?_ ?_
  · simp
  all_goals simp [Machine.firePhase]

/-- An entry with a record's fields keeps sold and held. -/
theorem withRecord_fields (e : Seat) (r : ShowingRec) :
    (withRecord e r).phase = e.phase ∧ (withRecord e r).sold = e.sold ∧ (withRecord e r).held = e.held ∧
      (withRecord e r).capacity = r.capacity := ⟨rfl, rfl, rfl, rfl⟩

/-- An accepted record of intent OPEN keeps the law (R25). -/
theorem SeatLaw.openShowing {s : State} (h : SeatLaw s) (i : ShowingIx) (r : ShowingRec)
    (hc : (s.seats.entries.get i).sold + (s.seats.entries.get i).held ≤ r.capacity) :
    SeatLaw (openShowing s i r) := by
  refine h.enterPhase i (withRecord (s.seats.entries.get i) r) _
    (phaseFromNow_gate s.setup s.clock.now (withRecord (s.seats.entries.get i) r).start) hc (h.held i) _
    (by simp only [Machine.openShowing, changeSeat_entries, enterPhase_keeps]; rfl) ?_ ?_ ?_ ?_ ?_ ?_
  · simp
  all_goals simp [Machine.openShowing]

/-- An entry put in place with its holds released keeps the law (R27, R29). -/
theorem SeatLaw.cleared {s t : State} (h : SeatLaw s) (i : ShowingIx) (e : Seat)
    (h1 : t.seats.entries = setAt s.seats.entries i e) (hs : e.sound) (hv : e.phase = .vacant → e.capacity = 0)
    (hh : e.held = 0) (h2 : t.holds = (releaseHolds s i).holds)
    (h3 : t.due = (releaseHolds s i).due.remove (.phase i)) (h4 : t.resetN = s.resetN) (h5 : t.part = s.part)
    (h6 : t.start.stage = s.start.stage) : SeatLaw t := by
  refine h.exchange i e h1 hs hv ?_ ?_ ?_ ?_ ?_
  · rw [heldBy_release i i h2, if_pos rfl, hh]
  · intro j hj; rw [heldBy_release i j h2, if_neg hj]
  · intro g x hx
    simp only [h2, releaseHolds, get_mapTab] at hx
    split at hx
    · cases hx
    · next hn =>
      refine .inr ⟨?_, hx⟩
      rintro rfl
      simp [hx, holdNames] at hn
  · rw [h3]
    refine TargetsOk.remove ?_ _
    refine TargetsOk.of_subset h.targets fun x hx => ?_
    simp only [releaseHolds, List.mem_append, List.mem_filter] at hx ⊢
    tauto
  · intro hc g
    simp only [State.rebuilding, h4, h5, h6] at hc
    simp [h2, releaseHolds, h.loads hc g]

theorem SeatLaw.cancelShowing {s : State} (h : SeatLaw s) (i : ShowingIx) (r : ShowingRec)
    (hc : (s.seats.entries.get i).sold ≤ r.capacity) : SeatLaw (cancelShowing s i r) := by
  refine h.cleared i _ (by simp only [Machine.cancelShowing, changeSeat_entries, removeDue_keeps, releaseHolds_keeps]; rfl)
    ?_ ?_ ?_ ?_ ?_ ?_ ?_ ?_
  · simp [Seat.sound, Seat.recount, withRecord, hc]
  · simp [Seat.recount]
  · simp [Seat.recount]
  all_goals simp [Machine.cancelShowing, removeDue]

theorem SeatLaw.vacateShowing {s : State} (h : SeatLaw s) (i : ShowingIx) : SeatLaw (vacateShowing s i) := by
  refine h.cleared i _ (by simp only [Machine.vacateShowing, changeSeat_entries, removeDue_keeps, releaseHolds_keeps]; rfl)
    ?_ ?_ ?_ ?_ ?_ ?_ ?_ ?_
  · simp [Seat.sound, Seat.vacant]
  · simp [Seat.vacant]
  · simp [Seat.vacant]
  all_goals simp [Machine.vacateShowing, removeDue]

/-- A handed showing record keeps the law (R24 to R29). -/
theorem SeatLaw.handShowing {s : State} (h : SeatLaw s) (i : ShowingIx) (bs : List Byte) :
    SeatLaw (handShowing s i bs) := by
  unfold Machine.handShowing
  dsimp only
  split
  · exact h.same (by simp) (by simp) (by simp) (by simp) (by simp) (by simp)
  · next hr =>
    unfold showingRefusal at hr
    repeat' split at hr
    all_goals try cases hr
    repeat' split
    · next h1 h2 => exact h.openShowing i _ (by simp_all)
    · next h1 h2 => exact h.cancelShowing i _ (by simp_all)
    · exact h.vacateShowing i

/-! ### The journal (R48 to R55) -/

theorem SeatLaw.sell {s : State} (h : SeatLaw s) (k : JournalIx) (r : JournalRec) : SeatLaw (sell s k r) := by
  unfold Machine.sell
  split
  · unfold sellSeats
    have h1 : SeatLaw (clampReport s .saleClamped k r (min r.seats (s.seats.entries.get r.showing).left)) :=
      h.same (by simp) (by simp) (by simp) (by simp) (by simp) (by simp)
    have h2 := h1.setCounts r.showing
      ((s.seats.entries.get r.showing).sold + min r.seats (s.seats.entries.get r.showing).left) (by
        have := h.sound r.showing
        simp only [clampReport_keeps]
        have h3 := this.1
        have h4 := this.2
        omega)
    simpa using h2
  · exact h.same (by simp) (by simp) (by simp) (by simp) (by simp) (by simp)

theorem SeatLaw.refund {s : State} (h : SeatLaw s) (k : JournalIx) (r : JournalRec) : SeatLaw (refund s k r) := by
  unfold Machine.refund
  have h1 : SeatLaw (clampReport s .refundClamped k r (min r.seats (s.seats.entries.get r.showing).sold)) :=
    h.same (by simp) (by simp) (by simp) (by simp) (by simp) (by simp)
  have h2 := h1.setCounts r.showing
    ((s.seats.entries.get r.showing).sold - min r.seats (s.seats.entries.get r.showing).sold) (by
      have := (h.sound r.showing).1
      simp only [clampReport_keeps]
      omega)
  simpa using h2

/-- A hold's removal, with its seats given back or sold, keeps the law (R52, R53, R55). -/
theorem SeatLaw.endHold {s t : State} (h : SeatLaw s) (g : HoldIx) (x : Hold) (hx : s.holds.get g = some x) (f : Seat)
    (hf : t.seats.entries = setAt s.seats.entries x.showing f)
    (hp : f.phase = (s.seats.entries.get x.showing).phase)
    (hc : f.capacity = (s.seats.entries.get x.showing).capacity)
    (hh : f.held = (s.seats.entries.get x.showing).held - x.seats)
    (hs : f.sold ≤ (s.seats.entries.get x.showing).sold + x.seats)
    (hl : f.left = f.capacity - f.sold - f.held)
    (h2 : t.holds = setAt s.holds g none) (h3 : TargetsOk t.due) (h4 : t.resetN = s.resetN) (h5 : t.part = s.part)
    (h6 : t.start.stage = s.start.stage) : SeatLaw t := by
  have hb := heldBy_setAt (t := t) g none h2
  have hle := seatsOf_le_heldBy s g x.showing
  simp only [hx, seatsOf] at hb hle
  have hheld := h.held x.showing
  have hsound := (h.sound x.showing).1
  simp only [if_true] at hle
  refine h.exchange x.showing f hf ⟨?_, hl⟩ ?_ ?_ ?_ ?_ h3 ?_
  · omega
  · rw [hp, hc]; exact h.vacant x.showing
  · have := hb x.showing
    simp only [if_true, Nat.add_zero] at this
    omega
  · intro j hj
    have := hb j
    simp only [Ne.symm hj, if_false, Nat.add_zero] at this
    exact this
  · intro k y hy
    rw [h2, get_setAt] at hy
    split at hy
    · cases hy
    · by_cases he : y.showing = x.showing
      · exact .inl ⟨he, by rw [hp]; exact h.gate _ k y hy he⟩
      · exact .inr ⟨he, hy⟩
  · intro hc k
    simp only [State.rebuilding, h4, h5, h6] at hc
    rw [h2, get_setAt]
    split
    · rfl
    · exact h.loads hc k

/-- The hold that a desk and token name. -/
theorem findHold_some {s : State} {desk : Fin 8} {token : BitVec 16} {g : HoldIx} {x : Hold}
    (h : findHold s desk token = some (g, x)) : s.holds.get g = some x ∧ x.desk = desk ∧ x.token = token := by
  unfold findHold at h
  obtain ⟨k, _, hk⟩ := List.exists_of_findSome?_eq_some h
  split at hk
  · next y hy =>
    split at hk
    · next hc => cases hk; exact ⟨hy, hc⟩
    · cases hk
  · cases hk

theorem freeHold_some {s : State} {g : HoldIx} (h : freeHold s = some g) : s.holds.get g = none := by
  have := List.find?_some h
  simpa using this

theorem SeatLaw.setCounts_removeHold {s : State} (h : SeatLaw s) (g : HoldIx) (x : Hold)
    (hx : s.holds.get g = some x) (n : Nat) (hn : n ≤ (s.seats.entries.get x.showing).sold + x.seats) :
    SeatLaw (Machine.setCounts (removeHold s g) x.showing n ((s.seats.entries.get x.showing).held - x.seats)) := by
  refine h.endHold g x hx _ (by rw [setCounts_entries]; simp only [removeHold_keeps]; rfl) ?_ ?_ ?_ ?_ ?_ ?_ ?_ ?_ ?_ ?_
  · simp [Seat.recount]
  · simp [Seat.recount]
  · simp [Seat.recount]
  · simpa [Seat.recount] using hn
  · simp [Seat.recount]
  · simp [removeHold, removeDue]
  · simp only [setCounts_keeps]
    exact TargetsOk.remove h.targets _
  all_goals simp

theorem SeatLaw.raise {s : State} (h : SeatLaw s) (k : ReportKind) (a b : List Byte) : SeatLaw (raise s k a b) :=
  h.same (by simp) (by simp) (by simp) (by simp) (by simp) (by simp)

theorem SeatLaw.convert {s : State} (h : SeatLaw s) (k : JournalIx) (r : JournalRec) : SeatLaw (convert s k r) := by
  unfold Machine.convert
  dsimp only
  split
  · next g x hf =>
    split
    · next he =>
      rw [← he]
      exact h.setCounts_removeHold g x (findHold_some hf).1 _ (le_refl _)
    · exact (h.raise _ _ _).sell k r
  · exact (h.raise _ _ _).sell k r

theorem SeatLaw.release {s : State} (h : SeatLaw s) (k : JournalIx) (r : JournalRec) : SeatLaw (release s k r) := by
  unfold Machine.release
  dsimp only
  split
  · next g x hf =>
    split
    · next he =>
      rw [← he]
      exact h.setCounts_removeHold g x (findHold_some hf).1 _ (Nat.le_add_right _ _)
    · exact h.raise _ _ _
  · exact h.raise _ _ _

theorem SeatLaw.expireHold {s : State} (h : SeatLaw s) (g : HoldIx) : SeatLaw (expireHold s g) := by
  unfold Machine.expireHold
  dsimp only
  split
  · exact h
  · next x hx => exact (h.setCounts_removeHold g x hx _ (Nat.le_add_right _ _)).raise _ _ _

/-- A new hold with its seats set aside keeps the law (R51). -/
theorem SeatLaw.addHold {s t : State} (h : SeatLaw s) (g : HoldIx) (x : Hold) (hx : s.holds.get g = none) (f : Seat)
    (hf : t.seats.entries = setAt s.seats.entries x.showing f)
    (hp : f.phase = (s.seats.entries.get x.showing).phase) (hg : passesGate f.phase = true)
    (hc : f.capacity = (s.seats.entries.get x.showing).capacity)
    (hh : f.held = (s.seats.entries.get x.showing).held + x.seats)
    (hs : f.sold = (s.seats.entries.get x.showing).sold) (hl : f.left = f.capacity - f.sold - f.held)
    (hn : x.seats ≤ (s.seats.entries.get x.showing).left)
    (h2 : t.holds = setAt s.holds g (some x)) (h3 : TargetsOk t.due) (h4 : t.resetN = true)
    (h5 : t.active = true) : SeatLaw t := by
  have hb := heldBy_setAt (t := t) g _ h2
  simp only [hx, seatsOf, Nat.add_zero] at hb
  have hsd := h.sound x.showing
  have hs1 := hsd.1
  have hs2 := hsd.2
  have hheld := h.held x.showing
  refine h.exchange x.showing f hf ⟨?_, hl⟩ ?_ ?_ ?_ ?_ h3 ?_
  · omega
  · rw [hp, hc]; exact h.vacant x.showing
  · have := hb x.showing
    simp only [if_true] at this
    omega
  · intro j hj
    have := hb j
    simp only [Ne.symm hj, if_false, Nat.add_zero] at this
    exact this
  · intro k y hy
    rw [h2, get_setAt] at hy
    split at hy
    · cases hy; exact .inl ⟨rfl, hg⟩
    · by_cases he : y.showing = x.showing
      · exact .inl ⟨he, hg⟩
      · exact .inr ⟨he, hy⟩
  · intro hc
    exfalso
    simp only [h4, State.rebuilding, State.active] at hc h5
    cases hpart : t.part <;> simp_all

theorem SeatLaw.hold {s : State} (h : SeatLaw s) (k : JournalIx) (r : JournalRec) (hres : s.resetN = true)
    (hact : s.active = true) : SeatLaw (hold s k r) := by
  unfold Machine.hold
  dsimp only
  split
  · exact h.same (by simp) (by simp) (by simp) (by simp) (by simp) (by simp)
  · next hg =>
    split
    · exact h.raise _ _ _
    · next g hf =>
      repeat' split
      · exact h.raise _ _ _
      · exact h.raise _ _ _
      · refine h.addHold g { showing := r.showing, desk := deskOf r, token := r.token,
                             seats := min r.seats (s.seats.entries.get r.showing).left } (freeHold_some hf) _
          (by rw [setCounts_entries]; simp only [clampReport_keeps, insertDue_keeps]; rfl) ?_ ?_ ?_ ?_ ?_ ?_ ?_ ?_ ?_
          ?_ ?_
        · simp [Seat.recount]
        · simpa [Seat.recount] using hg
        · simp [Seat.recount]
        · simp [Seat.recount]
        · simp [Seat.recount]
        · simp [Seat.recount]
        · exact Nat.min_le_right _ _
        · simp
        · simp only [setCounts_keeps, clampReport_keeps]
          exact TargetsOk.insert h.targets _ _ (by simp)
        · simpa using hres
        · simpa [State.active] using hact

/-- A fetched journal record, acted on or refused, keeps the law (R44, R48 to R53). -/
theorem SeatLaw.applyJournal {s : State} (h : SeatLaw s) (r : JournalRec) (hres : s.resetN = true)
    (hact : s.active = true) : SeatLaw (applyJournal s r) := by
  unfold Machine.applyJournal
  dsimp only
  split
  · exact h.raise _ _ _
  · split
    · exact h.sell _ _
    · exact h.refund _ _
    · exact h.hold _ _ hres hact
    · exact h.convert _ _
    · exact h.release _ _
    · exact h

/-! ### Building (R37, R38) -/

/-- A built entry keeps the law: no hold is live while a build goes on. -/
theorem SeatLaw.build {s t : State} (h : SeatLaw s) (i : ShowingIx) (f : Seat) (hn : ∀ g, s.holds.get g = none)
    (hf : t.seats.entries = setAt s.seats.entries i f) (hs : f.sound) (hh : f.held = 0)
    (hv : f.phase = .vacant → f.capacity = 0) (h2 : ∀ g, t.holds.get g = none) (h3 : TargetsOk t.due) : SeatLaw t := by
  have hb : ∀ (u : State), (∀ g, u.holds.get g = none) → ∀ j, heldBy u j = 0 := by
    intro u hu j
    rw [heldBy_eq, List.sum_eq_zero]
    intro x hx
    rw [List.mem_map] at hx
    obtain ⟨g, _, rfl⟩ := hx
    simp [hu g, seatsOf]
  refine h.exchange i f hf hs hv ?_ ?_ ?_ h3 (fun _ => h2)
  · rw [hb t h2, hh]
  · intro j _; rw [hb t h2, hb s hn]
  · intro g x hx; rw [h2 g] at hx; cases hx

theorem noHolds_release {s : State} (h : ∀ g, s.holds.get g = none) (i : ShowingIx) (g : HoldIx) :
    (releaseHolds s i).holds.get g = none := by
  simp [releaseHolds, h g]

theorem noHolds_enterPhase {s : State} (h : ∀ g, s.holds.get g = none) (i : ShowingIx) (e : Seat) (p : Phase)
    (g : HoldIx) : (enterPhase s i e p).1.holds.get g = none := by
  rw [enterPhase_holds]
  split
  · simp [h g]
  · exact h g

theorem placeSeat_entries (s : State) (i : ShowingIx) (e : Seat) :
    (placeSeat s i e).seats.entries = setAt s.seats.entries i e := rfl

/-- A showing built from its record keeps the law, and no hold becomes live (R37). -/
theorem SeatLaw.buildShowing {s : State} (h : SeatLaw s) (i : ShowingIx) (bs : List Byte)
    (hn : ∀ g, s.holds.get g = none) :
    SeatLaw (buildShowing s i bs) ∧ ∀ g, (Machine.buildShowing s i bs).holds.get g = none := by
  have hvac : (Seat.vacant s.clock.now).sound ∧ (Seat.vacant s.clock.now).held = 0 ∧
      (Seat.vacant s.clock.now).capacity = 0 := by
    refine ⟨⟨?_, ?_⟩, ?_, ?_⟩ <;> simp [Seat.vacant]
  have hsold : ∀ r : ShowingRec, builtSold s.start.resume r bs ≤ r.capacity := by
    intro r
    unfold builtSold
    split
    · exact Nat.min_le_right _ _
    · exact Nat.zero_le _
  unfold Machine.buildShowing
  dsimp only
  generalize showingRec bs = r
  split
  · exact ⟨h.build i _ hn (by rw [placeSeat_entries]; simp only [raise_keeps]) hvac.1 hvac.2.1
      (fun _ => hvac.2.2) (by simpa using hn) (by simpa using h.targetsOk), by simpa using hn⟩
  · split
    · exact ⟨h.build i _ hn (placeSeat_entries _ _ _) hvac.1 hvac.2.1 (fun _ => hvac.2.2) (by simpa using hn)
        (by simpa using h.targetsOk), by simpa using hn⟩
    · have h1 : ∀ s1 : State, s1.seats = s.seats → s1.holds = s.holds → s1.due = s.due → ∀ e : Seat,
          e = builtSeat s r bs → SeatLaw (if r.intent = 2 then placeSeat s1 i ({ e with phase := .cancelled }).recount
            else placeSeat (Machine.enterPhase s1 i e (phaseFromNow s.setup s.clock.now e.start)).1 i
              (Machine.enterPhase s1 i e (phaseFromNow s.setup s.clock.now e.start)).2) ∧
            ∀ g, (if r.intent = 2 then placeSeat s1 i ({ e with phase := .cancelled }).recount
              else placeSeat (Machine.enterPhase s1 i e (phaseFromNow s.setup s.clock.now e.start)).1 i
                (Machine.enterPhase s1 i e (phaseFromNow s.setup s.clock.now e.start)).2).holds.get g = none := by
        intro s1 k1 k2 k3 e he
        have hn1 : ∀ g, s1.holds.get g = none := by rw [k2]; exact hn
        have hcap : e.sold ≤ e.capacity ∧ e.held = 0 := by
          subst he; exact ⟨hsold r, rfl⟩
        split
        · refine ⟨h.build i _ hn (by rw [placeSeat_entries, k1]) ?_ ?_ ?_ (by simpa using hn1)
            (by simpa [k3] using h.targetsOk), by simpa using hn1⟩
          · exact ⟨by simpa [Seat.recount, hcap.2] using hcap.1, rfl⟩
          · exact hcap.2
          · intro hv; cases hv
        · refine ⟨h.build i _ hn (by rw [placeSeat_entries]; simp only [enterPhase_keeps, k1]; rfl) ?_ ?_ ?_ ?_ ?_, ?_⟩
          · rw [enterPhase_seat]
            refine ⟨?_, rfl⟩
            simp only [Seat.recount]
            split <;> omega
          · rw [enterPhase_seat]
            simp only [Seat.recount]
            split
            · rfl
            · exact hcap.2
          · rw [enterPhase_seat]
            simp only [Seat.recount]
            intro hv
            have := phaseChain_gate s1.setup s1.clock.now e.start _ (phaseFromNow_gate s.setup s.clock.now e.start)
            by_cases hcl : (phaseChain s1.setup s1.clock.now e.start
                (phaseFromNow s.setup s.clock.now e.start)).1 = .closed
            · rw [hcl] at hv; cases hv
            · have := this hcl; rw [hv] at this; cases this
          · simp only [placeSeat_keeps]; exact noHolds_enterPhase hn1 _ _ _
          · simp only [placeSeat_keeps]; exact enterPhase_targets _ _ _ _ (by rw [k3]; exact h.targets)
          · simp only [placeSeat_keeps]; exact noHolds_enterPhase hn1 _ _ _
      exact h1 _ (by split <;> simp) (by split <;> simp) (by split <;> simp) _ rfl

end Sys2Proof.Machine
end

