-- ==== Sys2Proof/Laws/Keeping.lean ====
section
/-! SUPPORT. The law of sellable counts and the law of seats through the operations that answers, builds and commits are
made of. -/

namespace Sys2Proof.Machine

/-- The law of sellable counts and the law of seats together. -/
def SeatLaws (s : State) : Prop := SellableLaw s ∧ SeatLaw s

/-- A journal record acted on keeps the sellable counts (R31). -/
theorem applyJournal_sellable {s : State} (h : SellableLaw s) (r : JournalRec) : SellableLaw (applyJournal s r) := by
  have hc : ∀ (t : State) i a b, t.seats = s.seats → SellableLaw (setCounts t i a b) :=
      fun t i a b e => (h.of_seats e).changeSeat _ _
  unfold applyJournal; dsimp only
  have hsell : ∀ t : State, t.seats = s.seats → SellableLaw (sell t s.journal.tail r) := by
    intro t e; unfold sell sellSeats
    split
    · exact hc _ _ _ _ (by simp [e])
    · exact h.of_seats (by simp [e])
  split
  · exact h.of_seats (by simp)
  · split
    · exact hsell s rfl
    · exact hc _ _ _ _ (by simp)
    · unfold hold; dsimp only; repeat' split
      all_goals first | exact hc _ _ _ _ (by simp) | exact h.of_seats (by simp)
    · unfold convert; dsimp only; repeat' split
      all_goals first | exact hc _ _ _ _ (by simp) | exact hsell _ (by simp)
    · unfold release; dsimp only; repeat' split
      all_goals first | exact hc _ _ _ _ (by simp) | exact h.of_seats (by simp)
    · exact h

/-- A showing record handed over keeps the sellable counts (R31). -/
theorem handShowing_sellable {s : State} (h : SellableLaw s) (i bs) : SellableLaw (handShowing s i bs) := by
  unfold handShowing openShowing cancelShowing vacateShowing; dsimp only
  repeat' split
  · exact h.of_seats (by simp)
  all_goals exact (SellableLaw.of_seats h (by simp)).changeSeat _ _

/-- A record handed over keeps the laws (R13). -/
theorem handRecord_seatLaws {s : State} (h : SeatLaws s) (x bs) : SeatLaws (handRecord s x bs) := by
  cases x
  case showing => exact ⟨handShowing_sellable h.1 _ _, h.2.handShowing _ _⟩
  case notice n =>
    refine ⟨h.1.of_seats (by simp [handRecord]), h.2.of_eq (by simp [handRecord]) (by simp [handRecord]) ?_
        (by simp only [handRecord, State.rebuilding, handNotice_keeps]; exact h.2.loads)⟩
    have : TargetsOk (handNotice s n bs).due := by
      unfold handNotice withdrawNotice postNotice setExpiry; dsimp only
      repeat' split
      all_goals first
        | (simp only [raise_keeps, recomputeNotices_keeps, walkWaitList_keeps, endNotice_keeps, removeDue,
            insertDue, tryBanner_keeps, activateLine_keeps, takeFields_keeps,
            leaveState_keeps]
           first
             | exact h.2.targetsOk
             | exact h.2.targetsOk.remove _
             | exact h.2.targetsOk.insert _ _ (by simp))
        | exact h.2.targetsOk
    exact this
  all_goals exact ⟨h.1.of_seats (by simp [handRecord]), h.2.same (by simp [handRecord]) (by simp [handRecord])
      (by simp [handRecord]) (by simp [handRecord]) (by simp [handRecord]) (by simp [handRecord])⟩

theorem contain_part (s : State) (c) :
    (contain s c).part = s.part ∨ (contain s c).part = .quiet ∨ (contain s c).part = .transparent := by
  unfold contain; split <;> simp [enterQuiet, enterTransparent]

/-- A reported memory fault and its containment keep the laws (R171, R172). -/
theorem memoryFault_seatLaws {s : State} (h : SeatLaws s) (ha : s.resetN = true) (r a w) :
    SeatLaws (memoryFault s r a w) := by
  refine ⟨h.1.of_seats (by simp), h.2.of_eq (by simp) (by simp) ?_ ?_⟩
  · have : TargetsOk (memoryFault s r a w).due := by
      unfold memoryFault contain; dsimp only; split
      · simpa using h.2.targetsOk
      · simp [enterTransparent, DueList.empty, TargetsOk]
      · simpa using h.2.targetsOk
    exact this
  · intro hc
    rw [show (memoryFault s r a w).holds = s.holds by simp]
    rcases contain_part (raise s .memoryFault (le8 r.code)
    (le32 a.toNat ++ le8 (classify s a.toNat).code ++ le8 (kindCode w) ++
        le8 (containment s.setup.mode s.part false).code)) (containment s.setup.mode s.part false) with e | e | e
    · apply h.2.loads
      have e2 : (memoryFault s r a w).part = s.part := by simpa [memoryFault] using e
      simpa [State.rebuilding, e2] using hc
    all_goals
      have e2 : (memoryFault s r a w).part = _ := e
      simp [State.rebuilding, e2, ha] at hc

/-- A faulted report write keeps the laws (R169). -/
theorem reportWriteFault_seatLaws {s : State} (h : SeatLaws s) (ha : s.resetN = true) (b) :
    SeatLaws (reportWriteFault s b) := by
  refine ⟨h.1.of_seats (by simp), h.2.of_eq (by simp) (by simp) ?_ ?_⟩
  · have : TargetsOk (reportWriteFault s b).due := by
      unfold reportWriteFault contain; dsimp only; split
      · simpa using h.2.targetsOk
      · simp [enterTransparent, DueList.empty, TargetsOk]
      · simpa using h.2.targetsOk
    exact this
  · intro hc
    rw [show (reportWriteFault s b).holds = s.holds by simp]
    have key :
        (reportWriteFault s b).part = s.part ∨ (reportWriteFault s b).part = .quiet ∨
          (reportWriteFault s b).part = .transparent := by
      unfold reportWriteFault; dsimp only
      have := contain_part { s with reports := (if b then { s.reports with queue :=
          s.reports.queue.tail } else s.reports).setOverflow } (containment s.setup.mode s.part true)
      simpa using this
    rcases key with e | e | e
    · apply h.2.loads
      simpa [State.rebuilding, e] using hc
    all_goals simp [State.rebuilding, e, ha] at hc

/-- What leaves seats, holds and the Due List alone keeps the laws. -/
theorem SeatLaws.same {s t : State} (h : SeatLaws s) (h1 : t.seats = s.seats) (h2 : t.holds = s.holds)
    (h3 : t.due = s.due) (h4 : t.resetN = s.resetN) (h5 : t.part = s.part) (h6 : t.start.stage = s.start.stage) :
        SeatLaws t :=
  ⟨h.1.of_seats h1, h.2.same h1 h2 h3 h4 h5 h6⟩

theorem requeue_seatLaws {s : State} (h : SeatLaws s) (r) : SeatLaws (requeue s r) := h.same (by simp) (by simp)
    (by simp) (by simp) (by simp) (by simp)
theorem setFetchState_seatLaws {s : State} (h : SeatLaws s) (r f) : SeatLaws (setFetchState s r f) := h.same
    (by simp) (by simp) (by simp) (by simp) (by simp) (by simp)
/-- The answer to a record fetch keeps the laws (R13). -/
theorem commitFetchDone_seatLaws {s : State} (h : SeatLaws s) (ha : s.resetN = true) (r k x) :
    SeatLaws (commitFetchDone s r k x) := by
  have h0 : ∀ f, SeatLaws (endFetch s f) := by
    intro f
    have h1 : SeatLaws { s with commit := { s.commit with
        fetches := s.commit.fetches.filter fun x => x.record != f.record } } := h.same rfl rfl rfl rfl rfl rfl
    unfold endFetch; dsimp only
    split
    · unfold fetchFault; dsimp only
      have h2 := fun a => memoryFault_seatLaws h1 ha .commit a false
      split
      · exact h2 _
      · split
        · exact requeue_seatLaws (h2 _) _
        · exact setFetchState_seatLaws (h2 _) _ _
    · unfold fetchOk
      split
      · exact h1.same (by simp) (by simp) (by simp) (by simp) (by simp) (by simp)
      · refine handRecord_seatLaws ?_ _ _
        exact h1.same (by simp) (by simp) (by simp) (by simp) (by simp) (by simp)
  unfold commitFetchDone; dsimp only
  repeat' split
  · exact h
  · exact h.same rfl rfl rfl rfl rfl rfl
  · exact h0 _

theorem skipFaulted_seatLaws {s : State} (h : SeatLaws s) : SeatLaws (skipFaulted s) := h.same (by simp) (by simp)
    (by simp) (by simp) (by simp) (by simp)
theorem advanceTail_seatLaws {s : State} (h : SeatLaws s) : SeatLaws (advanceTail s) := h.same (by simp) (by simp)
    (by simp) (by simp) (by simp) (by simp)

/-- The answer to a tail fetch keeps the laws (R43 to R53). -/
theorem journalFetchDone_seatLaws {s : State} (h : SeatLaws s) (hr : s.resetN = true) (ha : s.active = true) (a x) :
    SeatLaws (journalFetchDone s a x) := by
  unfold journalFetchDone; dsimp only
  repeat' split
  · exact h.same (by simp) (by simp) (by simp) (by simp) (by simp) (by simp)
  · apply advanceTail_seatLaws
    have h1 : SeatLaws (setJournalFetch s .none) := h.same (by simp) (by simp) (by simp) (by simp) (by simp) (by simp)
    exact ⟨applyJournal_sellable h1.1 _, h1.2.applyJournal _ (by simpa using hr) (by simpa [State.active] using ha)⟩
  · exact memoryFault_seatLaws h hr _ _ _
  · exact skipFaulted_seatLaws (memoryFault_seatLaws h hr _ _ _)

theorem paintMemoryFault_seatLaws {s : State} (h : SeatLaws s) (hr : s.resetN = true) (k a w) :
    SeatLaws (paintMemoryFault s k a w) := by
  unfold paintMemoryFault; repeat' split
  · exact memoryFault_seatLaws h hr _ _ _
  · exact h
  · exact h

theorem modPaint_seatLaws {s : State} (h : SeatLaws s) (k f) : SeatLaws (modPaint s k f) := h.same (by simp)
    (by simp) (by simp) (by simp) (by simp) (by simp)
theorem fillEntry_seatLaws {s : State} (h : SeatLaws s) (k f) : SeatLaws (fillEntry s k f) := h.same (by simp)
    (by simp) (by simp) (by simp) (by simp) (by simp)

/-- The two laws as a build keeps them: no hold is live. -/
def Building (s : State) : Prop := SeatLaws s ∧ ∀ g, s.holds.get g = none

theorem buildShowingAt_building {s : State} (h : Building s) (i x) : Building (buildShowingAt s i x) := by
  unfold buildShowingAt; split
  · next bs =>
    have h1 : SeatLaws (setRev s (.showing i) (byteAt bs 31)) := h.1.same (by simp) (by simp) (by simp) (by simp)
        (by simp) (by simp)
    have h2 := h1.2.buildShowing i bs (by simpa using h.2)
    refine ⟨⟨?_, h2.1⟩, h2.2⟩
    unfold buildShowing; dsimp only
    repeat' split
    all_goals exact SellableLaw.placeSeat (h1.1.of_seats (by simp)) _ _
  · have h1 : SeatLaws (setRev s (.showing i) 0) := h.1.same (by simp) (by simp) (by simp) (by simp) (by simp)
      (by simp)
    refine ⟨⟨h1.1.placeSeat _ _, h1.2.build i _ (by simpa using h.2) (placeSeat_entries _ _ _) ?_ ?_ ?_
        (by simpa using h.2) (by simpa using h1.2.targetsOk)⟩, by simpa [buildShowingFault] using h.2⟩
    · constructor <;> simp [Seat.vacant]
    · rfl
    · intro; rfl

theorem buildNotice_due {s : State} (h : TargetsOk s.due) (n x) : TargetsOk (buildNoticeAt s n x).due := by
  unfold buildNoticeAt buildNotice; dsimp only
  repeat' split
  all_goals first
    | simpa using h
    | (simp only [insertDue, takeFields_keeps, setRev_keeps]; exact h.insert _ _ (by simp))

/-- A build read taken keeps the laws (R178). -/
theorem buildRead_building {s : State} (h : Building s) (b x) : Building (buildRead s b x) := by
  cases b
  case showings k =>
    exact foldl_preserves Building _ _ (fun s j _ hs => buildShowingAt_building hs _ _) s h
  case notices k =>
    have h0 : ∀ n, Building (buildBlock s 64 2 x fun t j r => buildNoticeAt t (Fin.ofNat 32 (2*n+j)) r) := by
      intro n
      refine foldl_preserves Building _ _ (fun s j _ hs => ?_) s h
      refine ⟨⟨hs.1.1.of_seats (by simp), hs.1.2.of_eq (by simp)
          (by simp) (buildNotice_due hs.1.2.targetsOk _ _) ?_⟩, by simpa using hs.2⟩
      intro _; simpa using hs.2
    simp only [buildRead]; unfold buildNotices; dsimp only
    split
    · have := h0 k
      exact ⟨this.1.same (by simp) (by simp) (by simp) (by simp) (by simp) (by simp), by simpa using this.2⟩
    · exact h0 k
  case journal k => exact ⟨h.1.same (by simp [buildRead]) (by simp [buildRead]) (by simp [buildRead])
      (by simp [buildRead]) (by simp [buildRead]) (by simp [buildRead]), by simpa [buildRead] using h.2⟩
  case layouts k =>
    refine ⟨⟨h.1.1.of_seats (by simp [buildRead]), h.1.2.of_eq (by simp [buildRead]) (by simp [buildRead])
        (by simpa [buildRead] using h.1.2.targets) ?_⟩, by simpa [buildRead] using h.2⟩
    intro _; simpa [buildRead] using h.2
  all_goals
    refine ⟨⟨h.1.1.of_seats ?_, h.1.2.of_eq ?_ ?_ ?_ ?_⟩, ?_⟩
    · simp [buildRead, buildBlock_keeps State.seats]
    · simp [buildRead, buildBlock_keeps State.seats]
    · simp [buildRead, buildBlock_keeps State.holds]
    · have := h.1.2.targets; simpa [buildRead, buildBlock_keeps State.due] using this
    · intro _; simpa [buildRead, buildBlock_keeps State.holds] using h.2
    · simpa [buildRead, buildBlock_keeps State.holds] using h.2

theorem buildDrain_building (n : Nat) {s : State} (h : Building s) : Building (buildDrain n s) := by
  induction n generalizing s with
  | zero => exact h
  | succ n ih =>
    simp only [buildDrain]
    split
    · next t ht =>
      obtain ⟨d, l, b, x, rfl⟩ := buildNext_some ht
      apply ih
      apply buildRead_building
      exact ⟨h.1.same rfl rfl rfl rfl rfl rfl, h.2⟩
    · exact h

theorem secondAdvance_due (s : State) (h : TargetsOk s.due) : TargetsOk (secondAdvance s).due := by
  unfold secondAdvance; dsimp only
  repeat' split
  · simp only [recomputeClocks_keeps]; exact h.fire _ _
  · exact h.fire _ _
  · exact h

theorem takeWithheld_due (n : Nat) (s : State) (h : TargetsOk s.due) : TargetsOk (takeWithheld n s).due := by
  induction n generalizing s with
  | zero => exact h
  | succ n ih => exact ih _ (secondAdvance_due _ h)

theorem moveTime_due (s : State) (v) (h : TargetsOk s.due) : TargetsOk (moveTime s v).due := by
  simp [moveTime]; exact h.jumpTo _ _

theorem setTime_due (s : State) (v) (h : TargetsOk s.due) : TargetsOk (setTime s v).due := moveTime_due _ v h

theorem takePendingSet_due (s : State) (h : TargetsOk s.due) : TargetsOk (takePendingSet s).due := by
  unfold takePendingSet; split
  · exact moveTime_due _ _ h
  · exact h

/-- Entry to RUNNING keeps the laws (R179). -/
theorem enterRunning_building {s : State} (h : Building s) : Building (enterRunning s) := by
  refine ⟨⟨h.1.1.of_seats (by simp), h.1.2.of_eq (by simp) (by simp) ?_ ?_⟩, by simpa using h.2⟩
  · have : TargetsOk (enterRunning s).due := by
      unfold enterRunning; simp only [updateGap_keeps]
      exact takeWithheld_due _ _ (takePendingSet_due _ (by simpa using h.1.2.targetsOk))
    exact this
  · intro _; simpa using h.2

/-- The answer to a build read keeps the laws (R178, R179). -/
theorem buildReadDone_seatLaws {s : State} (h : Building s) (k x) : SeatLaws (buildReadDone s k x) := by
  unfold buildReadDone; dsimp only
  have h1 : Building (buildDrain (s.start.buildGot ++ [(k, x)]).length { s with start := { s.start with buildGot :=
      s.start.buildGot ++ [(k, x)] } }) :=
    buildDrain_building _ ⟨h.1.same rfl rfl rfl rfl rfl rfl, h.2⟩
  split
  · refine (enterRunning_building ?_).1
    exact ⟨h1.1.same (by simp) (by simp) (by simp) (by simp) (by simp) (by simp), by simpa using h1.2⟩
  · exact h1.1

/-- The answer to a Setup Block read keeps the laws (R177). -/
theorem setupReadDone_seatLaws {s : State} (h : SeatLaws s) (hp : s.part = .loading ∨ s.part = .restarting)
    (hr : s.resetN = true) (k x) : SeatLaws (setupReadDone s k x) := by
  have href : ∀ t : State, t.seats = s.seats → t.holds = s.holds → t.resetN = true → SeatLaws (refuseLoad t) := by
    intro t h1 h2 h3
    refine ⟨h.1.of_seats (by simp [h1]), h.2.of_eq (by simp [h1]) (by simp [h2]) ?_ ?_⟩
    · simp [refuseLoad, enterTransparent, DueList.empty]
    · simp [refuseLoad, enterTransparent, h3, State.rebuilding]
  have hacc : ∀ (t : State) bs, t.seats = s.seats → t.holds = s.holds → t.due = s.due → t.resetN = s.resetN →
      t.part = s.part → SeatLaws (acceptLoad t bs) := by
    intro t bs h1 h2 h3 h4 h5
    refine ⟨h.1.of_seats (by simp [h1]), h.2.of_eq (by simp [h1]) (by simp [h2])
      (by simpa [h3] using h.2.targets) ?_⟩
    intro hc
    rw [show (acceptLoad t bs).holds = s.holds by simp [h2]]
    rcases hp with e | e
    · exact h.2.loads (.inr (.inl e))
    · unfold acceptLoad at hc; simp [h5, e, h4, hr, State.rebuilding] at hc
  unfold setupReadDone; dsimp only
  repeat' split
  · exact h.same rfl rfl rfl rfl rfl rfl
  · exact hacc _ _ rfl rfl rfl rfl rfl
  · exact href _ rfl rfl hr
  · exact href _ rfl rfl hr

/-- The answer to any own request, or its timeout, keeps the laws. -/
theorem ownDone_seatLaws {s : State} (h : SeatLaws s) (hr : s.resetN = true) (a p x) : SeatLaws (ownDone s a p x) :=
    by
  unfold ownDone
  split
  · next haw =>
    unfold awaits at haw
    cases p <;> simp only [ownEffect] <;> simp only at haw
    case setupRead => simp at haw; exact setupReadDone_seatLaws h haw.1 hr _ _
    case buildRead =>
      simp at haw
      exact buildReadDone_seatLaws ⟨h, h.2.loads (.inr (.inr haw))⟩ _ _
    case commitFetch => exact commitFetchDone_seatLaws h hr _ _ _
    case journalFetch => exact journalFetchDone_seatLaws h hr haw _ _
    case writeBack =>
      unfold writeBackDone; split
      · exact h
      · exact memoryFault_seatLaws h hr _ _ _
    case glyphRead =>
      unfold glyphReadDone; dsimp only; repeat' split
      · exact modPaint_seatLaws h _ _
      · exact paintMemoryFault_seatLaws h hr _ _ _
      · exact modPaint_seatLaws (paintMemoryFault_seatLaws h hr _ _ _) _ _
    case rowWrite =>
      unfold rowWriteDone; dsimp only; repeat' split
      · exact modPaint_seatLaws h _ _
      · exact paintMemoryFault_seatLaws h hr _ _ _
      · exact modPaint_seatLaws (paintMemoryFault_seatLaws h hr _ _ _) _ _
    case glyphFetch =>
      unfold glyphFetchDone; dsimp only; repeat' split
      · exact fillEntry_seatLaws h _ _
      · exact memoryFault_seatLaws h hr _ _ _
      · exact fillEntry_seatLaws (memoryFault_seatLaws h hr _ _ _) _ _
    case reportRecord =>
      unfold reportRecordDone; split
      · exact h.same rfl rfl rfl rfl rfl rfl
      · exact reportWriteFault_seatLaws h hr _
    case reportHeader =>
      unfold reportHeaderDone; split
      · exact h
      · exact reportWriteFault_seatLaws h hr _
  · exact h

/-- A commit or observed field taken keeps the laws (R6 to R11). -/
theorem takeItem_seatLaws {s : State} (h : SeatLaws s) (hr : s.resetN = true) (x) :
    SeatLaws (takeItem s x) ∧ (takeItem s x).resetN = true := by
  refine ⟨?_, by simpa using hr⟩
  unfold takeItem; split
  · next hd =>
    cases x
    case restart v =>
      simp only [restartWritten]
      split
      · exact h
      · simp only [requestRestart]
        have hb : SeatLaws (beginRestart { s with commit := { s.commit with lastRestart := v } }) := by
          refine ⟨h.1.of_seats (by simp), h.2.of_eq (by simp) (by simp) (by simpa using h.2.targets) ?_⟩
          simp [beginRestart, State.rebuilding, dropOwn, hr]
        repeat' split
        · exact h.same rfl rfl rfl rfl rfl rfl
        · exact h.same rfl rfl rfl rfl rfl rfl
        · exact hb
        · exact hb
    case timeSet rev v =>
      simp only [timeSetWritten]
      repeat' split
      · exact h
      · exact h.same (by simp) (by simp) (by simp) (by simp) (by simp) (by simp)
      · exact h.same (by simp) (by simp) (by simp) (by simp) (by simp) (by simp)
      · refine ⟨h.1.of_seats (by simp), h.2.of_eq (by simp) (by simp) (setTime_due _ _ h.2.targetsOk) ?_⟩
        simp only [State.rebuilding, setTime_keeps]; exact h.2.loads
    all_goals exact h.same (by simp) (by simp) (by simp) (by simp) (by simp) (by simp)
  · exact h

/-- A write whose response is taken keeps the laws (R6). -/
theorem commitsTaken_seatLaws {s : State} (h : SeatLaws s) (hr : s.resetN = true) (st l) :
    SeatLaws (commitsTaken s st l) := by
  unfold commitsTaken; split
  · exact (foldl_preserves (fun s => SeatLaws s ∧ s.resetN = true) _ _
      (fun s a _ hs => takeItem_seatLaws hs.1 hs.2 a) s ⟨h, hr⟩).1
  · exact h

end Sys2Proof.Machine
end

