-- ==== Sys2Proof/Laws/Offers.lean ====
section
/-! SUPPORT. What the tests of the requesters' offers say (R12, R15, R42, R101, R102, R162, R163, R167), in the words of
Safety.lean; what each requester chooses; and what a command leaves of the offers for the choice that ends it. -/

namespace Sys2Proof.Machine

/-- The block hazard rule holds no request to an address exactly when no write to its block is outstanding (R162). -/
theorem hazard_false_iff (s : State) (a : BitVec 32) : hazard s a = false ↔ blockFree s a := by
  simp only [hazard, blockFree, blockOf, List.any_eq_false, List.mem_finRange, forall_const]
  refine forall_congr' fun m => ?_
  cases h : s.traffic.tags.get m with
  | none => simp
  | some u => simp

/-- The two counts of live own requests agree. -/
theorem liveCount_eq (s : State) (f : OwnPurpose → Bool) : liveCount s f = liveOwns s f := by
  unfold liveCount liveOwns
  congr 1
  funext m
  unfold ownLive
  rcases s.traffic.tags.get m with _ | ⟨a, w, n, h⟩
  · rfl
  · rcases h with _ | _ | _ | ⟨p, t, st⟩ <;> try rfl
    cases st <;> rfl

/-- An offer of the Commit Unit stands exactly when it may be offered (R12, R15, R17, R42). -/
theorem commitOfferStands_iff (s : State) (o : CommitOffer) : commitOfferStands s o = true ↔ commitOffered s o := by
  cases o with
  | fetch => simp [commitOfferStands, commitOffered, fetchReady, and_assoc]
  | burst r =>
    have h : issuedOf s r = ((s.commit.fetches.find? fun x => x.record == r).map (·.issued)).getD 0 := by
      unfold issuedOf
      split <;> simp [*]
    simp only [commitOfferStands, commitOffered, h]
    cases s.commit.fetches.find? (fun x => x.record == r) with
    | none => simp
    | some f => simp [and_assoc]
  | journal => simp [commitOfferStands, commitOffered, journalReady, and_assoc]
  | writeBack w =>
    cases w <;> simp [commitOfferStands, commitOffered, writeBackReady, inWbQueue, liveCount_eq, and_assoc]

/-- An offer of the Report Unit stands exactly when it may be offered (R167). -/
theorem reportOfferStands_iff (s : State) (o : ReportOffer) : reportOfferStands s o = true ↔ reportOffered s o := by
  cases o <;> simp [reportOfferStands, reportOffered, reportReady, liveCount_eq, and_assoc]

/-- The paint that may issue a row write is the first that waits for one behind paints that issue no more (R102). -/
theorem rowPaint_eq_some_iff (s : State) (l : List Paint) (p : Paint) :
    rowPaint s l = some p ↔ ∃ before behind, l = before ++ p :: behind ∧ wantsRow s p = true ∧
      ∀ q ∈ before, q.doneIssuing = true := by
  induction l with
  | nil => simp [rowPaint]
  | cons x l ih =>
    simp only [rowPaint]
    constructor
    · intro h
      split at h
      · next w =>
        cases h
        exact ⟨[], l, rfl, w, by simp⟩
      · split at h
        · next d =>
          obtain ⟨before, behind, e, w, k⟩ := ih.mp h
          exact ⟨x :: before, behind, by simp [e], w, by simpa [d] using k⟩
        · cases h
    · rintro ⟨before, behind, e, w, k⟩
      cases before with
      | nil =>
        obtain ⟨rfl, rfl⟩ := by simpa using e
        simp [w]
      | cons y before =>
        obtain ⟨rfl, rfl⟩ := by simpa using e
        have d : x.doneIssuing = true := k x (by simp)
        have n : wantsRow s x = false := by
          simp only [Paint.doneIssuing, Bool.or_eq_true, Bool.and_eq_true, beq_iff_eq] at d
          rcases d with d | ⟨d, e | e⟩ <;> simp [wantsRow, d, e]
        simp only [n, d]
        exact ih.mpr ⟨before, behind, rfl, w, fun q h => k q (by simp [h])⟩

/-- An offer of the Cell Painter stands exactly when it may be offered (R101, R102). -/
theorem paintOfferStands_iff (s : State) (o : PaintOffer) : paintOfferStands s o = true ↔ paintOffered s o := by
  cases o with
  | glyph k => simp [paintOfferStands, paintOffered, awaitsGlyph, wantsGlyph, and_assoc]
  | row k =>
    have ends (q : Paint) : q.doneIssuing = true ↔ rowsOver q := by simp [Paint.doneIssuing, rowsOver]
    simp only [paintOfferStands, paintOffered]
    constructor
    · intro h
      split at h
      · next p e =>
        obtain ⟨before, behind, l, w, b⟩ := (rowPaint_eq_some_iff s _ p).mp e
        simp only [wantsRow, Bool.and_eq_true, beq_iff_eq, decide_eq_true_eq, Bool.not_eq_true'] at w
        exact ⟨p, by simpa using h, w.1.1.1, w.1.1.2, w.1.2, w.2, before, behind, l,
          fun q hq => (ends q).mp (b q hq)⟩
      · cases h
    · rintro ⟨x, hx, r, st, i, n, before, behind, l, b⟩
      rw [(rowPaint_eq_some_iff s _ x).mpr ⟨before, behind, l, by simp [wantsRow, r, st, i, n],
        fun q hq => (ends q).mpr (b q hq)⟩]
      simpa using hx

/-! ### What a command leaves of the offers -/

/-- Every request is its requester's own (R163). -/
theorem ownRequest_requester {s : State} {r : Requester} {p : OwnPurpose} {b : Burst}
    (h : ownRequest s r = some (p, b)) : p.requester = r := by
  cases r <;> simp only [ownRequest] at h
  case start =>
    unfold startRequest at h
    repeat' split at h
    all_goals first
      | cases h; done
      | (cases h; rfl)
      | (obtain ⟨x, _, hx⟩ := Option.map_eq_some_iff.mp h; cases hx; rfl)
  case commit =>
    obtain ⟨o, _, ho⟩ := Option.bind_eq_some_iff.mp h
    cases o <;> simp only [commitRequest] at ho
    case fetch => obtain ⟨x, _, hx⟩ := Option.map_eq_some_iff.mp ho; cases hx; rfl
    all_goals cases ho; rfl
  case painter =>
    obtain ⟨o, _, ho⟩ := Option.bind_eq_some_iff.mp h
    cases o <;> (simp only [paintRequest] at ho; obtain ⟨x, _, hx⟩ := Option.map_eq_some_iff.mp ho; cases hx; rfl)
  case notice =>
    unfold noticeRequest at h
    split at h
    · obtain ⟨x, _, hx⟩ := Option.map_eq_some_iff.mp h; cases hx; rfl
    · cases h
  case report =>
    obtain ⟨o, _, ho⟩ := Option.bind_eq_some_iff.mp h
    cases o <;> simp only [reportRequest] at ho
    case header => cases ho; rfl
    case record => obtain ⟨x, _, hx⟩ := Option.map_eq_some_iff.mp ho; cases hx; rfl

/-- A command that issues no own request grants none. -/
theorem grantOf_none {s : State} {c : Instr} (h : issuedKind c = none) : grantOf s c = none := by
  simp [grantOf, h]

/-- The grant of a command that issues an own request. -/
theorem grantOf_granted {s : State} {c : Instr} {mine : OwnPurpose → Bool} {r : Requester} {p : OwnPurpose} {b : Burst}
    (h1 : issuedKind c = some mine) (h2 : arbiterPick s = some (.own r)) (h3 : ownRequest s r = some (p, b))
    (h4 : mine p = true) : grantOf s c = some (r, p) := by
  simp [grantOf, h1, h2, h3, h4]

/-- What the requesters have left of their offers when their choice is made anew. -/
def offersLeft (s : State) (c : Instr) : Offers :=
  { commit := commitLeft s c, painter := paintLeft s c, report := reportLeft s c }

theorem offersLeft_none {s : State} {c : Instr} (h : issuedKind c = none) : offersLeft s c = s.offers := by
  simp [offersLeft, commitLeft, paintLeft, reportLeft, grantOf_none h]

/-- Only a layout's fetch has several bursts: four (R12). -/
theorem grantedOffers_eq (l : List CommitOffer) (r : RecordId) (k : Nat) :
    grantedOffers l r k = match r with
      | .layout p => if k < 3 then .burst (.layout p) :: l.tail else l.tail
      | _ => l.tail := by
  unfold grantedOffers
  cases r <;> simp [fetchShape]
  grind

/-- A granted request is gone from its requester's offers. -/
theorem noteIssued_offers {s : State} {p : OwnPurpose} :
    (noteIssued s p).offers = match p with
      | .commitFetch r k => { s.offers with commit := grantedOffers s.offers.commit r k }
      | .journalFetch => { s.offers with commit := s.offers.commit.tail }
      | .writeBack _ => { s.offers with commit := s.offers.commit.tail }
      | .glyphRead _ => { s.offers with painter := none }
      | .rowWrite _ _ => { s.offers with painter := none }
      | .reportRecord => { s.offers with report := none }
      | .reportHeader => { s.offers with report := none }
      | _ => s.offers := by
  cases p <;> rfl

/-- Every rule but those of RESET_N_ASSERT and LRST_N_RELEASE ends with the requesters choosing anew from what the
command has left of their offers. -/
theorem Ran.settles {s t : State} {c : Instr} (h : Ran s c t) :
    t = held s ∨ c = .lrstNRelease ∨ ∃ u, t = settle u ∧ u.offers = offersLeft s c := by
  cases h with
  | resetNAssert => exact .inl rfl
  | lrstNRelease => exact .inr (.inl rfl)
  | issue _ mine r p b m kind high pick request isMine tag block =>
    refine .inr (.inr ⟨_, rfl, ?_⟩)
    have hr := ownRequest_requester request
    have hg := grantOf_granted kind pick request isMine
    rw [noteIssued_offers]
    subst hr
    cases p <;> simp [offersLeft, commitLeft, paintLeft, reportLeft, hg, OwnPurpose.requester, ownGranted,
      grantedOffers_eq]
    case commitFetch x k => cases x <;> simp
  | answer _ m u p k st status d kind =>
    refine .inr (.inr ⟨_, rfl, .trans ?_ (offersLeft_none kind).symm⟩)
    unfold ownResponse
    split
    · simp
    · rfl
  | ownTimeout =>
    refine .inr (.inr ⟨_, rfl, .trans ?_ (offersLeft_none rfl).symm⟩)
    unfold Machine.ownTimeout
    dsimp only
    split
    · simp
    · rfl
  | accept =>
    refine .inr (.inr ⟨_, rfl, .trans ?_ (offersLeft_none rfl).symm⟩)
    unfold acceptRequest
    dsimp only
    split
    · simp [enlist]
    · rfl
  | _ =>
    refine .inr (.inr ⟨_, rfl, .trans ?_ (offersLeft_none rfl).symm⟩)
    first | rfl | simp

/-! ### The choice -/

/-- The Commit Unit's choice: what it offered and may still offer keeps its place, and what has become ready joins
behind, once each and a write-back only when none is there (R162, R163). -/
theorem commitOffers_eq (s : State) : ∃ new,
    commitOffers s = s.offers.commit.filter (commitOfferStands s) ++ new ∧ new.Nodup ∧
    (∀ o ∈ new, o ∈ commitReady s ∧ o ∉ s.offers.commit.filter (commitOfferStands s) ∧
      (o.isWriteBack = true → ∀ x ∈ s.offers.commit.filter (commitOfferStands s), x.isWriteBack = false)) ∧
    ∀ o ∈ commitReady s, o ∈ commitOffers s ∨ (o.isWriteBack = true ∧ ∃ x ∈ commitOffers s, x.isWriteBack = true) := by
  unfold commitOffers
  generalize s.offers.commit.filter (commitOfferStands s) = kept
  suffices h : ∀ (l : List CommitOffer) (k : List CommitOffer), ∃ new, l.foldl joinOffers k = k ++ new ∧ new.Nodup ∧
      (∀ o ∈ new, o ∈ l ∧ o ∉ k ∧ (o.isWriteBack = true → ∀ x ∈ k, x.isWriteBack = false)) ∧
      ∀ o ∈ l, o ∈ l.foldl joinOffers k ∨ (o.isWriteBack = true ∧ ∃ x ∈ l.foldl joinOffers k, x.isWriteBack = true)
    from h _ _
  intro l
  induction l with
  | nil => intro k; exact ⟨[], by simp⟩
  | cons a l ih =>
    intro k
    rw [List.foldl_cons]
    obtain ⟨new, h1, h2, h3, h4⟩ := ih (joinOffers k a)
    by_cases ha : a ∈ k ∨ (a.isWriteBack = true ∧ k.any CommitOffer.isWriteBack = true)
    · have e : joinOffers k a = k := by simp only [joinOffers, if_pos ha]
      rw [e] at h1 h3 h4 ⊢
      refine ⟨new, h1, h2, fun o ho => ⟨.tail _ (h3 o ho).1, (h3 o ho).2⟩, ?_⟩
      rintro o (_ | ⟨_, ho⟩)
      · rw [h1]
        rcases ha with ha | ⟨w, ha⟩
        · exact .inl (by simp [ha])
        · obtain ⟨x, hx, hw⟩ := List.any_eq_true.mp ha
          exact .inr ⟨w, x, by simp [hx], hw⟩
      · exact h4 o ho
    · have e : joinOffers k a = k ++ [a] := by simp only [joinOffers, if_neg ha]
      rw [e] at h1 h3 h4 ⊢
      have ha' : a ∉ k ∧ (a.isWriteBack = true → ∀ x ∈ k, x.isWriteBack = false) := by simpa using ha
      refine ⟨a :: new, by simp [h1], ?_, ?_, ?_⟩
      · rw [List.nodup_cons]
        exact ⟨fun h => by simpa using (h3 a h).2.1, h2⟩
      · rintro o (_ | ⟨_, ho⟩)
        · exact ⟨.head _, ha'⟩
        · obtain ⟨p, q, r⟩ := h3 o ho
          exact ⟨.tail _ p, by simp_all, fun w x hx => r w x (by simp [hx])⟩
      · rintro o (_ | ⟨_, ho⟩)
        · exact .inl (by rw [h1]; simp)
        · exact h4 o ho

/-- The next write-back in turn is the one that `turnHead` names (R15). -/
theorem turnHead_eq (c : CommitUnit) : nextWriteBack c = turnHead c := by
  unfold nextWriteBack turnHead
  cases c.wbLast <;> simp [wbTurn, wbHead, List.findSome?] <;>
    cases c.wbShowings.head? <;> cases c.wbJournal <;> cases c.wbStreams.head? <;> rfl

/-- A newly chosen request of the Cell Painter may be offered: a glyph read, of the earlier take, before a row write;
none is chosen only when none may be (R102, log 37). -/
theorem newPaintOffer_spec (u : State) :
    (∀ o, newPaintOffer u = some o → paintOffered u o ∧ match o with
      | .glyph k => ∃ before x behind, u.painter.slots = before ++ x :: behind ∧ x.slot = k ∧ awaitsGlyph u x ∧
          ∀ y ∈ before, ¬awaitsGlyph u y
      | .row _ => ∀ x ∈ u.painter.slots, ¬awaitsGlyph u x) ∧
    (newPaintOffer u = none → ∀ o, ¬paintOffered u o) := by
  have wg : ∀ x, wantsGlyph u x = true ↔ awaitsGlyph u x := by intro x; simp [wantsGlyph, awaitsGlyph, and_assoc]
  unfold newPaintOffer
  split
  · next p hp =>
    obtain ⟨h1, before, behind, h2, h3⟩ := List.find?_eq_some_iff_append.mp hp
    constructor
    · intro o ho; cases ho
      refine ⟨?_, before, p, behind, h2, rfl, (wg p).mp h1, ?_⟩
      · exact ⟨p, by simp [h2], rfl, (wg p).mp h1⟩
      · intro y hy hh; have := h3 y hy; simp [(wg y).mpr hh] at this
    · intro h; cases h
  · next hn =>
    rw [List.find?_eq_none] at hn
    constructor
    · intro o ho
      obtain ⟨x, hx, rfl⟩ := Option.map_eq_some_iff.mp ho
      refine ⟨?_, fun y hy hh => hn y hy ((wg y).mpr hh)⟩
      rw [← paintOfferStands_iff]
      simp [paintOfferStands, hx]
    · intro hh o ho
      cases o with
      | glyph k => obtain ⟨x, hx, _, ha⟩ := ho; exact hn x hx ((wg x).mpr ha)
      | row k =>
        rw [← paintOfferStands_iff] at ho
        simp only [paintOfferStands] at ho
        split at ho
        · next p hp => simp [hp] at hh
        · cases ho

/-- An offer of the Report Unit that may be offered is held exactly when a write to its block is outstanding (R162). -/
theorem reportHeld_iff (u : State) (o : ReportOffer) (h : reportOffered u o) : reportHeld u o = true ↔ reportStays u o := by
  have hz (a : BitVec 32) : hazard u a = true ↔ ¬blockFree u a := by rw [← hazard_false_iff]; simp
  cases o
  · simp [reportHeld, reportRequest, reportStays, hz, reportHeaderBurst, writeBurst]
  · obtain ⟨_, _, hq⟩ := h
    obtain ⟨a, l, hq⟩ := List.exists_cons_of_ne_nil hq
    simp [reportHeld, reportRequest, reportStays, hz, hq, reportRecordBurst, writeBurst]

/-- A newly chosen request of the Report Unit may be offered, the header before a record; none is chosen only when none
may be (R167). -/
theorem newReportOffer_spec (u : State) :
    (∀ o, newReportOffer u = some o → reportOffered u o ∧ (reportOffered u .header → o = .header)) ∧
    (newReportOffer u = none → ∀ o, ¬reportOffered u o) := by
  simp only [← reportOfferStands_iff]
  unfold newReportOffer
  cases hr : reportReady u <;> cases hh : u.reports.headerQueued <;> cases hq : u.reports.queue.isEmpty <;>
    constructor <;> rintro (_ | _) <;> simp_all [reportOfferStands] <;> rintro (_ | _) <;> simp_all

end Sys2Proof.Machine
end

