-- ==== Sys2Proof/Laws/PerInstr.lean ====
section
/-! SUPPORT. One lemma for each row of the table: no word spells the command (no row gives bits), and a well-formed
command that answers a request carries a tag of that request's kind and whole beats (R158, section 10.1). -/

namespace Sys2Proof.Laws.Form

/-- The tag and the data of a command that brings memory's answer, and whether the answer is to an own request. -/
def answer : Instr → Option (Bool × MemTag × List Byte)
  | .memoryResponse t _ d => some (false, t, d)
  | .commitFetchComplete t _ d => some (true, t, d)
  | .journalFetchComplete t _ d => some (true, t, d)
  | .writeBackComplete t _ => some (true, t, [])
  | .glyphReadResponse t _ d => some (true, t, d)
  | .rowWriteResponse t _ => some (true, t, [])
  | .glyphFetchComplete t _ d => some (true, t, d)
  | .reportWriteComplete t _ => some (true, t, [])
  | .setupReadComplete t _ d => some (true, t, d)
  | .buildReadComplete t _ d => some (true, t, d)
  | _ => none

/-- The form of a command. -/
def Statement (i : Instr) : Prop :=
  (∀ nbits w, decodeTableWord nbits w ≠ some i) ∧
    ∀ own t d, i.wf = true → answer i = some (own, t, d) → (own = true ↔ 64 ≤ t.val) ∧ d.length % 8 = 0

/-- A command that brings no answer. -/
theorem of_none {i : Instr} (h : answer i = none) : Statement i :=
  ⟨fun _ _ => by simp [decodeTableWord], fun _ _ _ _ k => by simp [h] at k⟩

/-- A command that brings the answer to an own request. -/
theorem of_own {i : Instr} {t : MemTag} {d : List Byte} (h : answer i = some (true, t, d))
    (k : i.wf = true → ownTagWf t = true ∧ dataWf d = true) : Statement i := by
  refine ⟨fun _ _ => by simp [decodeTableWord], fun own t' d' hw ha => ?_⟩
  rw [h] at ha
  cases ha
  have := k hw
  simp only [ownTagWf, dataWf, decide_eq_true_eq, Bool.and_eq_true, beq_iff_eq] at this
  simp [this.1, this.2.1]

theorem resetNAssert : Statement .resetNAssert := of_none rfl

theorem resetNRelease (b : BitVec 3) : Statement (.resetNRelease b) := of_none rfl

theorem lrstNAssert : Statement .lrstNAssert := of_none rfl

theorem lrstNRelease : Statement .lrstNRelease := of_none rfl

theorem controllerRequest (t : CtlTag) (b : Burst) : Statement (.controllerRequest t b) := of_none rfl

theorem forwardGrant : Statement .forwardGrant := of_none rfl

theorem memoryResponse (t : MemTag) (s : Status) (d : List Byte) : Statement (.memoryResponse t s d) := by
  refine ⟨fun _ _ => by simp [decodeTableWord], fun own t' d' hw ha => ?_⟩
  cases ha
  simp only [Instr.wf, ctlTagWf, dataWf, decide_eq_true_eq, Bool.and_eq_true, beq_iff_eq] at hw
  simp [hw.1, hw.2.1]

theorem hostTimeout (t : CtlTag) : Statement (.hostTimeout t) := of_none rfl

theorem ownRequestTimeout (t : MemTag) : Statement (.ownRequestTimeout t) := of_none rfl

theorem centiTick : Statement .centiTick := of_none rfl

theorem lobbySecond : Statement .lobbySecond := of_none rfl

theorem phaseFire : Statement .phaseFire := of_none rfl

theorem holdExpire : Statement .holdExpire := of_none rfl

theorem noticeExpire : Statement .noticeExpire := of_none rfl

theorem gapTimeout : Statement .gapTimeout := of_none rfl

theorem passIdleTimeout (p : PanelIx) : Statement (.passIdleTimeout p) := of_none rfl

theorem commitFetchIssue : Statement .commitFetchIssue := of_none rfl

theorem commitFetchComplete (t : MemTag) (s : Status) (d : List Byte) : Statement (.commitFetchComplete t s d) :=
  of_own rfl fun h => by simpa [Instr.wf] using h

theorem journalFetchIssue : Statement .journalFetchIssue := of_none rfl

theorem journalFetchComplete (t : MemTag) (s : Status) (d : List Byte) : Statement (.journalFetchComplete t s d) :=
  of_own rfl fun h => by simpa [Instr.wf] using h

theorem writeBackIssue : Statement .writeBackIssue := of_none rfl

theorem writeBackComplete (t : MemTag) (s : Status) : Statement (.writeBackComplete t s) :=
  of_own rfl fun h => ⟨by simpa [Instr.wf] using h, rfl⟩

theorem cellTake : Statement .cellTake := of_none rfl

theorem glyphReadIssue : Statement .glyphReadIssue := of_none rfl

theorem glyphReadResponse (t : MemTag) (s : Status) (d : List Byte) : Statement (.glyphReadResponse t s d) :=
  of_own rfl fun h => by simpa [Instr.wf] using h

theorem rowWriteIssue : Statement .rowWriteIssue := of_none rfl

theorem rowWriteResponse (t : MemTag) (s : Status) : Statement (.rowWriteResponse t s) :=
  of_own rfl fun h => ⟨by simpa [Instr.wf] using h, rfl⟩

theorem paintComplete : Statement .paintComplete := of_none rfl

theorem glyphFetchIssue : Statement .glyphFetchIssue := of_none rfl

theorem glyphFetchComplete (t : MemTag) (s : Status) (d : List Byte) : Statement (.glyphFetchComplete t s d) :=
  of_own rfl fun h => by simpa [Instr.wf] using h

theorem reportRecordWrite : Statement .reportRecordWrite := of_none rfl

theorem reportHeaderWrite : Statement .reportHeaderWrite := of_none rfl

theorem reportWriteComplete (t : MemTag) (s : Status) : Statement (.reportWriteComplete t s) :=
  of_own rfl fun h => ⟨by simpa [Instr.wf] using h, rfl⟩

theorem setupRead : Statement .setupRead := of_none rfl

theorem setupReadComplete (t : MemTag) (s : Status) (d : List Byte) : Statement (.setupReadComplete t s d) :=
  of_own rfl fun h => by simpa [Instr.wf] using h

theorem buildRead : Statement .buildRead := of_none rfl

theorem buildReadComplete (t : MemTag) (s : Status) (d : List Byte) : Statement (.buildReadComplete t s d) :=
  of_own rfl fun h => by simpa [Instr.wf] using h

theorem restartReload : Statement .restartReload := of_none rfl

end Sys2Proof.Laws.Form
end

