-- ==== Sys2Proof/Laws/Scan.lean ====
section
/-! SUPPORT. What a panel read, a pass start and a hand-off do to the scan states, the notices and the Commit Unit, and
what a slot write, a report offer, an accepted load and a reload can do. -/

namespace Sys2Proof.Machine

/-- A read leaves its panel SCANNING at its row, with the idle timer noted (R126). -/
theorem scanRead_scan (s : State) (p : PanelIx) (row : Nat) :
    ((scanRead s p row).scan.get p).scanning = true ∧ ((scanRead s p row).scan.get p).lastRow = row ∧
      ((scanRead s p row).scan.get p).idleStart = some s.clock.ticks := by
  simp [scanRead]

/-- A release clears the latch of its panel alone (R128). -/
theorem releaseLatch_scan (s : State) (p q : PanelIx) :
    (releaseLatch s p).scan.get q =
      if q = p then { s.scan.get p with banner := none, trailer := none } else s.scan.get q := by
  unfold releaseLatch
  dsimp only
  split <;> simp [get_setAt]

theorem latchBanner_scan_ne (s : State) {p q : PanelIx} (h : q ≠ p) :
    (latchBanner s p).scan.get q = s.scan.get q := by
  unfold latchBanner
  dsimp only
  split <;> simp [h]

theorem latchTrailer_scan_ne (s : State) {p q : PanelIx} (h : q ≠ p) :
    (latchTrailer s p).scan.get q = s.scan.get q := by
  unfold latchTrailer
  dsimp only
  (repeat' split) <;> simp [h]

/-- The trailer part of a latch leaves the banner part alone (R127). -/
theorem latchTrailer_banner (s : State) (p : PanelIx) :
    ((latchTrailer s p).scan.get p).banner = (s.scan.get p).banner := by
  unfold latchTrailer
  dsimp only
  (repeat' split) <;> simp

/-- A pass start touches its own panel alone (R127). -/
theorem startPass_scan_ne (s : State) {p q : PanelIx} (h : q ≠ p) : (startPass s p).scan.get q = s.scan.get q := by
  unfold startPass
  dsimp only
  split <;> simp [latchBanner_scan_ne _ h, latchTrailer_scan_ne _ h, releaseLatch_scan, h]

/-- The banner offered depends on the notice entries alone (R121). -/
theorem bannerOffered_congr {u v : NoticeUnit} (h : u.entries = v.entries) (p : PanelIx) :
    bannerOffered u p = bannerOffered v p := by
  unfold bannerOffered newerFirst
  rw [h]

/-- A pass without a banner latches one exactly when the spec is enabled and one is offered (R127). -/
theorem latchBanner_banner (s : State) (p : PanelIx) (h : (s.scan.get p).banner = none) :
    ((latchBanner s p).scan.get p).banner.isSome =
      ((s.roster.layouts.get p).banner.enabled && (bannerOffered s.notices p).isSome) := by
  unfold latchBanner
  dsimp only
  split
  · next h' => split at h' <;> simp_all
  · next h' => split at h' <;> simp_all

theorem releaseLatch_entries (s : State) (p : PanelIx) :
    (releaseLatch s p).notices.entries = s.notices.entries := by
  unfold releaseLatch
  dsimp only
  split <;> simp

/-- A pass start latches a banner exactly when the spec is enabled and one is offered (R127). -/
theorem startPass_banner (s : State) (p : PanelIx) :
    ((startPass s p).scan.get p).banner.isSome =
      ((s.roster.layouts.get p).banner.enabled && (bannerOffered s.notices p).isSome) := by
  have h := latchBanner_banner (releaseLatch s p) p (by simp [releaseLatch_scan])
  rw [bannerOffered_congr (releaseLatch_entries s p)] at h
  unfold startPass
  dsimp only
  split <;> simp [latchTrailer_banner, h]

/-- Of the Commit Unit a release can change the stream queue alone (R141, R145). -/
theorem releaseLatch_commit (s : State) (p : PanelIx) :
    (releaseLatch s p).commit = { s.commit with wbStreams := (releaseLatch s p).commit.wbStreams } := by
  unfold releaseLatch releaseSlot changeSlots
  dsimp only
  (repeat' split) <;> rfl

/-- Of the Commit Unit a pass start can change the stream queue alone. -/
theorem startPass_commit (s : State) (p : PanelIx) :
    (startPass s p).commit = { s.commit with wbStreams := (startPass s p).commit.wbStreams } := by
  have h : (startPass s p).commit = (releaseLatch s p).commit := by
    unfold startPass
    dsimp only
    split <;> simp
  rw [h]
  exact releaseLatch_commit s p

/-- Of the Commit Unit a hand-off at forwarding can change the stream queue alone (R105, R142). -/
theorem handOff_commit (s : State) (e : InFlight) :
    (handOff s e).commit = { s.commit with wbStreams := (handOff s e).commit.wbStreams } := by
  unfold handOff slotPixelWrite fillSlot changeSlots
  dsimp only
  repeat' split
  all_goals first
    | rfl
    | simp

/-! ### What an operation can do -/

/-- A slot write changes nothing, unless the stream is enabled and the slot is not FILLING (R140, R142). -/
theorem slotPixelWrite_cases (s : State) (i : StreamIx) (k : FrameIx) :
    let st := s.trailers.streams.get i
    let x := st.slots.get k
    ((s.setup.streams.get i).enabled = false ∨ x.state = .filling) ∧ slotPixelWrite s i k = s ∨
      (s.setup.streams.get i).enabled = true ∧
        (x.state = .free ∧ slotPixelWrite s i k = changeSlots s i (setAt st.slots k { x with state := .filling }) ∨
          x.state = .complete ∧
            let s1 := changeSlots s i (setAt st.slots k { x with state := .filling, newest := false, item := none })
            slotPixelWrite s i k =
              if 0 < x.latches then raise s1 .tear (le8 i.val) (le8 k.val ++ le16 x.latches) else s1) := by
  dsimp only
  unfold slotPixelWrite fillSlot
  cases h : (s.setup.streams.get i).enabled <;>
    cases hx : ((s.trailers.streams.get i).slots.get k).state <;> simp [hx]

/-- Every panel of `idlePanels` is IDLE, with its idle timer stopped and no latch (R125, R138). -/
@[simp] theorem get_idlePanels (v : Vector PanelScan 24) (p : PanelIx) :
    (idlePanels v).get p = { PanelScan.idle with lastRow := (v.get p).lastRow } := by
  simp [idlePanels]

/-- A stream of `unlatchedStreams` keeps all but its slots, of which none counts a latch (R154). -/
@[simp] theorem get_unlatchedStreams (v : Vector Stream 4) (i : StreamIx) :
    (unlatchedStreams v).get i = { v.get i with slots := mapTab (v.get i).slots FrameSlot.restarted } := by
  simp [unlatchedStreams]

/-- A slot kept across a restart is FREE if it was COMPLETE and not newest; otherwise it loses its latch count alone
(R154). -/
theorem FrameSlot.restarted_cases (x : FrameSlot) :
    (x.state = .complete ∧ x.newest = false) ∧ x.restarted = .free ∨
      ¬(x.state = .complete ∧ x.newest = false) ∧ x.restarted = { x with latches := 0 } := by
  unfold FrameSlot.restarted
  by_cases h : x.state = .complete ∧ x.newest = false <;> simp_all

/-- The Report Unit's offer is the one R167 chooses, unless a request that still stands is held by the block hazard rule
(R162). -/
theorem reportOffer_cases (s : State) :
    reportOffer s = newReportOffer s ∨
      ∃ o, s.offers.report = some o ∧ reportOfferStands s o = true ∧ reportHeld s o = true ∧ reportOffer s = some o := by
  unfold reportOffer
  cases h : s.offers.report with
  | none => exact .inl rfl
  | some o =>
    cases ho : reportOfferStands s o <;> cases hh : reportHeld s o <;> simp_all

/-- An accepted load begins the build at power-on; in a warm restart its bytes wait for RESTART_RELOAD (R177, R181). -/
theorem acceptLoad_cases (s : State) (bs : List Byte) :
    s.part = .loading ∧ acceptLoad s bs = beginBuild { takeValues s bs with part := .building } (flagAt bs 6) ∨
      s.part ≠ .loading ∧
        acceptLoad s bs = { s with start := { s.start with stage := .accepted bs, setupIssued := 0, setupGot := [] } } := by
  by_cases h : s.part = .loading
  · exact .inl ⟨h, if_pos h⟩
  · exact .inr ⟨h, if_neg h⟩

/-- RESTART_RELOAD begins the reads of the Setup Block, takes an accepted block with the clearing of the owners and
begins the rebuild, or changes nothing (R181). -/
theorem reload_cases (s : State) :
    s.start.stage = .wait ∧ reload s = beginReload s ∨
      (∃ bs, s.start.stage = .accepted bs ∧ reload s = beginBuild (clearOwners (takeValues s bs)) true) ∨
      (s.start.stage.reloads = false ∧ reload s = s) := by
  unfold reload
  cases s.start.stage <;> simp [Stage.reloads]

end Sys2Proof.Machine
end

