-- ==== Sys2Proof/Laws/Walk.lean ====
section
/-! SUPPORT. The redraw-pending walk (R99): which cells join the render queue, in which order, and which marks stand. -/

namespace Sys2Proof.Machine

/-! ### Cells joining the queue -/

/-- From `s` to `t` the cells `more` have joined the tail of the render queue and are marked queued; besides, only the
redraw-pending marks may have changed. -/
structure Joined (s t : State) (more : List CellRef) : Prop where
  queue : t.painter.queue = s.painter.queue ++ more
  marks : ∀ x, cellMarks t x = { cellMarks s x with queued := (cellMarks s x).queued || decide (x ∈ more) }
  slots : t.painter.slots = s.painter.slots
  roster : t.roster = s.roster

theorem Joined.refl (s : State) : Joined s s [] := ⟨by simp, by simp, rfl, rfl⟩

theorem Joined.trans {s t u : State} {a b : List CellRef} (h : Joined s t a) (k : Joined t u b) :
    Joined s u (a ++ b) where
  queue := by rw [k.queue, h.queue, List.append_assoc]
  marks x := by rw [k.marks, h.marks]; simp [Bool.or_assoc]
  slots := k.slots.trans h.slots
  roster := k.roster.trans h.roster

theorem Joined.setRedraw (s : State) (p : PanelIx) (l : LineIx) (b : Bool) : Joined s (setRedraw s p l b) [] :=
  ⟨by simp [Machine.setRedraw], by simp [Machine.setRedraw, cellMarks], rfl, rfl⟩

theorem Joined.enqueueCell {s : State} (h : s.painter.queue.length < 256) (r : CellRef) :
    Joined s (enqueueCell s r) [r] := by
  unfold Machine.enqueueCell
  rw [if_pos h]
  refine ⟨rfl, fun x => ?_, rfl, rfl⟩
  simp only [cellMarks, cellAt_setCell]
  by_cases e : x = r
  · subst e; simp
  · simp [e]

/-- A cell is left out after others have joined when it was before and is not one of them. -/
theorem Joined.leftOut {s t : State} {more : List CellRef} (h : Joined s t more) (x : CellRef) :
    leftOut t x = (leftOut s x && !decide (x ∈ more)) := by
  have e : stale t x = stale s x := by
    have := h.marks x
    simp only [cellMarks] at this
    simp [stale, this, h.roster]
  simp only [Machine.leftOut, e, h.marks x]
  cases stale s x <;> cases (cellMarks s x).queued <;> cases (cellMarks s x).painting <;>
    cases (cellMarks s x).faulted <;> simp

theorem Joined.lineCells {s t : State} {more : List CellRef} (h : Joined s t more) (p : PanelIx) (l : LineIx) :
    lineCells t p l = lineCells s p l := by
  unfold Machine.lineCells State.line
  rw [h.roster]

/-! ### One line -/

/-- The room of the render queue. -/
def queueRoom (s : State) : Nat := 256 - s.painter.queue.length

/-- The cells left out join in order while the queue has room. -/
theorem joinCells_spec (cells : List CellRef) (s : State) (nodup : cells.Nodup) :
    let t := cells.foldl (fun t r =>
      if leftOut t r && t.painter.queue.length < 256 then enqueueCell t r else t) s
    Joined s t ((cells.filter (leftOut s)).take (queueRoom s)) ∧ t.painter.redraw = s.painter.redraw := by
  induction cells generalizing s with
  | nil => simpa using Joined.refl s
  | cons a cells ih =>
    rw [List.nodup_cons] at nodup
    simp only [List.foldl_cons]
    by_cases ha : leftOut s a = true
    · by_cases room : s.painter.queue.length < 256
      · have j := Joined.enqueueCell room a
        obtain ⟨h1, h2⟩ := ih (enqueueCell s a) nodup.2
        have e1 : cells.filter (leftOut (enqueueCell s a)) = cells.filter (leftOut s) :=
          List.filter_congr fun x hx => by
            have : x ≠ a := fun e => nodup.1 (e ▸ hx)
            simp [j.leftOut, this]
        have e2 : queueRoom s = queueRoom (enqueueCell s a) + 1 := by
          simp only [queueRoom, j.queue, List.length_append, List.length_singleton]
          omega
        rw [e1] at h1
        simp only [ha, room, decide_true, Bool.and_self, if_true, List.filter_cons_of_pos]
        rw [e2, List.take_succ_cons]
        exact ⟨j.trans h1, h2.trans (by simp [enqueueCell, room])⟩
      · have e : queueRoom s = 0 := by unfold queueRoom; omega
        have := ih s nodup.2
        simpa [room, e] using this
    · have := ih s nodup.2
      simpa [ha] using this

theorem mem_lineCells {s : State} {p : PanelIx} {l : LineIx} {x : CellRef} :
    x ∈ lineCells s p l ↔ x.panel = p ∧ x.line = l ∧ isCell s x = true := by
  obtain ⟨q, k, c⟩ := x
  simp only [lineCells, isCell, List.mem_map, List.mem_filter, List.mem_finRange, true_and, decide_eq_true_eq,
    CellRef.mk.injEq]
  constructor
  · rintro ⟨d, hd, rfl, rfl, rfl⟩; exact ⟨rfl, rfl, hd⟩
  · rintro ⟨rfl, rfl, hd⟩; exact ⟨c, hd, rfl, rfl, rfl⟩

/-- The cells of a line stand in cell order. -/
theorem lineCells_sorted (s : State) (p : PanelIx) (l : LineIx) :
    (lineCells s p l).Pairwise fun x y => x.cell < y.cell := by
  unfold lineCells
  rw [List.pairwise_map]
  exact (List.pairwise_lt_finRange 48).filter _

theorem lineCells_nodup (s : State) (p : PanelIx) (l : LineIx) : (lineCells s p l).Nodup :=
  (lineCells_sorted s p l).imp fun h e => by simp [e] at h

/-- The cells of a line that the walk offers. -/
def lineWaits (s : State) (p : PanelIx) (l : LineIx) : List CellRef := (lineCells s p l).filter (leftOut s)

/-- The visit of one line: its cells that are left out join while there is room; the walk goes on, with the line's mark
clear, exactly when all of them have joined. -/
theorem walkLine_spec (s : State) (p : PanelIx) (l : LineIx) :
    let w := lineWaits s p l
    Joined s (walkLine s p l).1 (w.take (queueRoom s)) ∧
    (walkLine s p l).2 = decide (w.length ≤ queueRoom s) ∧
    (walkLine s p l).1.painter.redraw =
      if w.length ≤ queueRoom s then setLine s.painter.redraw p l false else s.painter.redraw := by
  obtain ⟨h1, h2⟩ := joinCells_spec (lineCells s p l) s (lineCells_nodup s p l)
  simp only [lineWaits, walkLine]
  generalize (lineCells s p l).foldl _ s = t at h1 h2
  have left : (lineCells t p l).any (leftOut t) = !decide ((lineWaits s p l).length ≤ queueRoom s) := by
    rw [h1.lineCells, ← Bool.coe_iff_coe]
    simp only [List.any_eq_true, h1.leftOut, Bool.and_eq_true, Bool.not_eq_eq_eq_not, Bool.not_true,
      decide_eq_false_iff_not, not_le]
    constructor
    · rintro ⟨x, hx, ho, hn⟩
      by_contra hlt
      exact hn (by rw [List.take_of_length_le (by simpa [lineWaits] using hlt)]; exact List.mem_filter.mpr ⟨hx, ho⟩)
    · intro hlt
      have nd : ((lineCells s p l).filter (leftOut s)).Nodup := (lineCells_nodup s p l).filter _
      refine ⟨(lineWaits s p l)[queueRoom s], ?_, ?_, ?_⟩
      · exact (List.mem_filter.mp (List.getElem_mem hlt)).1
      · exact (List.mem_filter.mp (List.getElem_mem hlt)).2
      · intro hm
        obtain ⟨i, hi, e⟩ := List.mem_take_iff_getElem.mp hm
        have := (List.Nodup.getElem_inj_iff nd).mp e
        omega
  rw [left]
  unfold lineWaits at *
  by_cases h : ((lineCells s p l).filter (leftOut s)).length ≤ queueRoom s
  · simp only [h, decide_true, Bool.not_true, Bool.false_eq_true, if_false, if_true, true_and]
    exact ⟨by simpa using h1.trans (Joined.setRedraw t p l false), by simp [setRedraw, h2]⟩
  · simp only [h, decide_false, Bool.not_false, if_true, if_false, true_and]
    exact ⟨h1, h2⟩

/-! ### The walk -/

/-- The cells that a walk over lines offers, in its order (R99). -/
def walkWaits (s : State) (lines : List (PanelIx × LineIx)) : List CellRef :=
  lines.flatMap fun pl => if lineAt s.painter.redraw pl.1 pl.2 then lineWaits s pl.1 pl.2 else []

theorem walkWaits_cons (s : State) (a : PanelIx × LineIx) (lines : List (PanelIx × LineIx)) :
    walkWaits s (a :: lines) =
      (if lineAt s.painter.redraw a.1 a.2 then lineWaits s a.1 a.2 else []) ++ walkWaits s lines := rfl

theorem mem_walkWaits {s : State} {lines : List (PanelIx × LineIx)} {x : CellRef} :
    x ∈ walkWaits s lines ↔ (x.panel, x.line) ∈ lines ∧ lineAt s.painter.redraw x.panel x.line = true ∧
      isCell s x = true ∧ leftOut s x = true := by
  simp only [walkWaits, List.mem_flatMap, Prod.exists]
  constructor
  · rintro ⟨p, l, h, hx⟩
    split at hx
    · next m =>
      obtain ⟨h1, h2⟩ := List.mem_filter.mp hx
      obtain ⟨rfl, rfl, h3⟩ := mem_lineCells.mp h1
      exact ⟨h, m, h3, h2⟩
    · cases hx
  · rintro ⟨h, m, c, o⟩
    exact ⟨_, _, h, by rw [if_pos m]; exact List.mem_filter.mpr ⟨mem_lineCells.mpr ⟨rfl, rfl, c⟩, o⟩⟩

/-- The walk over the lines that are left, as `redrawWalk` makes it over all of them. -/
def walkLines (lines : List (PanelIx × LineIx)) (acc : State × Bool) : State × Bool :=
  lines.foldl (fun acc pl =>
    if acc.2 && lineAt acc.1.painter.redraw pl.1 pl.2 then walkLine acc.1 pl.1 pl.2 else acc) acc

theorem walkLines_over (lines : List (PanelIx × LineIx)) (s : State) : walkLines lines (s, false) = (s, false) := by
  induction lines with
  | nil => rfl
  | cons a lines ih => simpa [walkLines] using ih

/-- The number of a line in the order of the walk. -/
def lineNo (a : PanelIx × LineIx) : Nat := 16 * a.1.val + a.2.val

theorem lineNo_inj {a b : PanelIx × LineIx} (h : lineNo a = lineNo b) : a = b := by
  obtain ⟨p, l⟩ := a
  obtain ⟨q, k⟩ := b
  unfold lineNo at h
  have : p = q ∧ l = k := ⟨Fin.ext (by dsimp at h; omega), Fin.ext (by dsimp at h; omega)⟩
  rw [this.1, this.2]

/-- What a walk over lines in rising order does: the cells it offers join in its order while the queue has room, and the
mark of a line stands exactly when a cell that it offers at that line or at an earlier one is left out. -/
theorem walkLines_spec (lines : List (PanelIx × LineIx)) (s : State)
    (sorted : lines.Pairwise fun a b => lineNo a < lineNo b) :
    let t := (walkLines lines (s, true)).1
    let w := walkWaits s lines
    Joined s t (w.take (queueRoom s)) ∧
    ∀ a, lineAt t.painter.redraw a.1 a.2 = true ↔ lineAt s.painter.redraw a.1 a.2 = true ∧
      (a ∈ lines → ∃ x ∈ w, x ∉ w.take (queueRoom s) ∧ lineNo (x.panel, x.line) ≤ lineNo a) := by
  induction lines generalizing s with
  | nil => exact ⟨by simpa [walkLines, walkWaits] using Joined.refl s, by simp [walkLines]⟩
  | cons b lines ih =>
    rw [List.pairwise_cons] at sorted
    have later {a : PanelIx × LineIx} (h : a ∈ lines) : a ≠ b := by
      rintro rfl; exact absurd (sorted.1 a h) (lt_irrefl _)
    have place {x : CellRef} (h : x ∈ walkWaits s lines) : lineNo b < lineNo (x.panel, x.line) :=
      sorted.1 _ (mem_walkWaits.mp h).1
    have here {x : CellRef} (h : x ∈ lineWaits s b.1 b.2) : lineNo (x.panel, x.line) = lineNo b := by
      obtain ⟨h1, h2, _⟩ := mem_lineCells.mp (List.mem_filter.mp h).1
      rw [h1, h2]
    have step : walkLines (b :: lines) (s, true) =
        walkLines lines (if lineAt s.painter.redraw b.1 b.2 then walkLine s b.1 b.2 else (s, true)) := by
      simp [walkLines]
    dsimp only
    rw [walkWaits_cons, step]
    by_cases m : lineAt s.painter.redraw b.1 b.2 = true
    · rw [if_pos m, if_pos m]
      obtain ⟨j, go, rd⟩ := walkLine_spec s b.1 b.2
      generalize walkLine s b.1 b.2 = v at j go rd
      obtain ⟨u, f⟩ := v
      dsimp only at j go rd
      subst go
      by_cases fits : (lineWaits s b.1 b.2).length ≤ queueRoom s
      · rw [decide_eq_true fits]
        rw [if_pos fits] at rd
        rw [List.take_of_length_le fits] at j
        obtain ⟨h1, h2⟩ := ih u sorted.2
        have mark (a : PanelIx × LineIx) :
            lineAt u.painter.redraw a.1 a.2 = true ↔ a ≠ b ∧ lineAt s.painter.redraw a.1 a.2 = true := by
          rw [rd, lineAt_setLine]
          by_cases e : a = b
          · simp [e]
          · have : ¬(a.1 = b.1 ∧ a.2 = b.2) := fun h => e (Prod.ext h.1 h.2)
            simp [e, this]
        have same : walkWaits u lines = walkWaits s lines := by
          unfold walkWaits
          simp only [List.flatMap]
          congr 1
          refine List.map_congr_left fun a ha => ?_
          have e : lineAt u.painter.redraw a.1 a.2 = lineAt s.painter.redraw a.1 a.2 := by
            rw [← Bool.coe_iff_coe, mark]; simp [later ha]
          have e2 : lineWaits u a.1 a.2 = lineWaits s a.1 a.2 := by
            unfold lineWaits
            rw [j.lineCells]
            refine List.filter_congr fun x hx => ?_
            have : x ∉ lineWaits s b.1 b.2 := fun h => by
              obtain ⟨p1, p2, _⟩ := mem_lineCells.mp hx
              have := here h
              rw [p1, p2] at this
              exact later ha (lineNo_inj this)
            simp [j.leftOut, this]
          rw [e, e2]
        have room : queueRoom u = queueRoom s - (lineWaits s b.1 b.2).length := by
          simp only [queueRoom, j.queue, List.length_append]
          omega
        rw [same] at h1 h2
        have split : (lineWaits s b.1 b.2 ++ walkWaits s lines).take (queueRoom s) =
            lineWaits s b.1 b.2 ++ (walkWaits s lines).take (queueRoom u) := by
          rw [List.take_append, List.take_of_length_le fits, room]
        rw [split]
        refine ⟨j.trans h1, fun a => ?_⟩
        rw [h2, mark]
        constructor
        · rintro ⟨⟨h3, h4⟩, h5⟩
          refine ⟨h4, fun h6 => ?_⟩
          obtain ⟨x, h7, h8, h9⟩ := h5 ((List.mem_cons.mp h6).resolve_left h3)
          refine ⟨x, List.mem_append_right _ h7, fun h => ?_, h9⟩
          rcases List.mem_append.mp h with h | h
          · exact absurd (here h) (place h7).ne'
          · exact h8 h
        · rintro ⟨h3, h4⟩
          have out (h : a ∈ b :: lines) : ∃ x ∈ walkWaits s lines, x ∉ (walkWaits s lines).take (queueRoom u) ∧
              lineNo (x.panel, x.line) ≤ lineNo a := by
            obtain ⟨x, h5, h6, h7⟩ := h4 h
            rw [List.mem_append, not_or] at h6
            exact ⟨x, (List.mem_append.mp h5).resolve_left h6.1, h6.2, h7⟩
          refine ⟨⟨?_, h3⟩, fun h => out (List.mem_cons_of_mem _ h)⟩
          rintro rfl
          obtain ⟨x, h5, _, h6⟩ := out List.mem_cons_self
          exact absurd (place h5) (not_lt.mpr h6)
      · rw [decide_eq_false fits, walkLines_over]
        rw [if_neg fits] at rd
        have cut : (lineWaits s b.1 b.2 ++ walkWaits s lines).take (queueRoom s) =
            (lineWaits s b.1 b.2).take (queueRoom s) := List.take_append_of_le_length (by omega)
        rw [cut]
        refine ⟨j, fun a => ?_⟩
        dsimp only
        rw [rd]
        refine ⟨fun h => ⟨h, fun ha => ?_⟩, fun h => h.1⟩
        have nd : (lineWaits s b.1 b.2).Nodup := (lineCells_nodup s b.1 b.2).filter _
        have lt : queueRoom s < (lineWaits s b.1 b.2).length := by omega
        refine ⟨(lineWaits s b.1 b.2)[queueRoom s], List.mem_append_left _ (List.getElem_mem lt), fun hm => ?_, ?_⟩
        · obtain ⟨i, hi, e⟩ := List.mem_take_iff_getElem.mp hm
          have := (List.Nodup.getElem_inj_iff nd).mp e
          omega
        · rw [here (List.getElem_mem lt)]
          rcases List.mem_cons.mp ha with rfl | ha
          · exact le_rfl
          · exact (sorted.1 a ha).le
    · rw [if_neg m, if_neg m, List.nil_append]
      obtain ⟨h1, h2⟩ := ih s sorted.2
      refine ⟨h1, fun a => ?_⟩
      rw [h2]
      refine and_congr_right fun h => ?_
      have : a ≠ b := by rintro rfl; exact m h
      simp [this]

theorem allLines_sorted : allLines.Pairwise fun a b => lineNo a < lineNo b := by
  unfold allLines
  rw [List.pairwise_flatMap]
  constructor
  · intro p _
    rw [List.pairwise_map]
    exact (List.pairwise_lt_finRange 16).imp fun h => by unfold lineNo; dsimp; omega
  · refine (List.pairwise_lt_finRange 24).imp fun h => ?_
    simp only [List.mem_map, lineNo]
    rintro x ⟨l, _, rfl⟩ y ⟨k, _, rfl⟩
    dsimp
    omega

theorem mem_allLines (a : PanelIx × LineIx) : a ∈ allLines := by simp [allLines]

/-- The cells that the walk offers stand in the order of panel, line and cell. -/
theorem walkWaits_sorted (s : State) : (walkWaits s allLines).Pairwise fun x y =>
    48 * lineNo (x.panel, x.line) + x.cell.val < 48 * lineNo (y.panel, y.line) + y.cell.val := by
  unfold walkWaits
  rw [List.pairwise_flatMap]
  have mem {a : PanelIx × LineIx} {x : CellRef}
      (h : x ∈ if lineAt s.painter.redraw a.1 a.2 then lineWaits s a.1 a.2 else []) : (x.panel, x.line) = a := by
    split at h
    · obtain ⟨h1, h2, _⟩ := mem_lineCells.mp (List.mem_filter.mp h).1
      exact Prod.ext h1 h2
    · cases h
  constructor
  · intro a _
    split
    · refine List.Pairwise.imp_of_mem (fun {x y} hx hy h => ?_) ((lineCells_sorted s a.1 a.2).filter (leftOut s))
      obtain ⟨h1, h2, _⟩ := mem_lineCells.mp (List.mem_filter.mp hx).1
      obtain ⟨h3, h4, _⟩ := mem_lineCells.mp (List.mem_filter.mp hy).1
      have h : x.cell.val < y.cell.val := h
      rw [h1, h2, h3, h4]
      omega
    · exact .nil
  · refine allLines_sorted.imp fun {a b} h x hx y hy => ?_
    rw [mem hx, mem hy]
    omega

/-- The redraw-pending walk (R99): the stale cells of marked lines that are not queued, painting or faulted join the
tail of the queue, in the order of panel, line and cell, while it has room; the marks of the line at which the walk ends
with a cell left out and of the lines after it stand, and every other mark clears. -/
theorem redrawWalk_spec (s : State) :
    let w := walkWaits s allLines
    Joined s (redrawWalk s) (w.take (queueRoom s)) ∧
    ∀ p l, lineAt (redrawWalk s).painter.redraw p l = true ↔ lineAt s.painter.redraw p l = true ∧
      ∃ x ∈ w, x ∉ w.take (queueRoom s) ∧ lineNo (x.panel, x.line) ≤ lineNo (p, l) := by
  have e : redrawWalk s = (walkLines allLines (s, true)).1 := by unfold redrawWalk walkLines; rfl
  obtain ⟨h1, h2⟩ := walkLines_spec allLines s allLines_sorted
  dsimp only at h1 h2 ⊢
  rw [e]
  refine ⟨h1, fun p l => ?_⟩
  rw [h2 (p, l)]
  simp only [mem_allLines, forall_const]

end Sys2Proof.Machine
end

