-- ==== Sys2Proof/Tests/Slice0.lean ====
section
/-! SUPPORT. The model's own tests: the checks of WellFormed, one or two small tests for each row of the table with the
result worked out by hand from the spec, and a witness for the hypotheses of each statement. -/

namespace Sys2Proof.Tests

open Sys2Proof.Machine

set_option Elab.async false

/-! ### WellFormed refuses (00 section 6.3, section 10.1, R158) -/

/-- A read of one beat at address 0. -/
def read1 : Burst := { isWrite := false, addr := 0, beats := 1, lanes := [] }

/-- A write of one beat at an address, of eight bytes of value `v`. -/
def write1 (addr : BitVec 32) (v : Byte) : Burst :=
  { isWrite := true, addr := addr, beats := 1, lanes := List.replicate 8 (some v) }

theorem test_wf_read_of_one_beat : (Instr.controllerRequest 0 read1).wf = true := by decide

theorem test_wf_refuses_no_beats : (Instr.controllerRequest 0 { read1 with beats := 0 }).wf = false := by decide

theorem test_wf_refuses_seventeen_beats :
    (Instr.controllerRequest 0 { read1 with beats := 17 }).wf = false := by decide +kernel

theorem test_wf_refuses_unaligned : (Instr.controllerRequest 0 { read1 with addr := 4 }).wf = false := by decide

theorem test_wf_refuses_block_crossing :
    (Instr.controllerRequest 0 { read1 with addr := 120, beats := 2 }).wf = false := by decide +kernel

theorem test_wf_last_beat_of_a_block :
    (Instr.controllerRequest 0 { read1 with addr := 120, beats := 1 }).wf = true := by decide +kernel

theorem test_wf_refuses_short_write :
    (Instr.controllerRequest 0 { write1 0 7 with lanes := List.replicate 7 none }).wf = false := by decide +kernel

theorem test_wf_refuses_lanes_of_a_read :
    (Instr.controllerRequest 0 { read1 with lanes := List.replicate 8 none }).wf = false := by decide +kernel

theorem test_wf_refuses_broken_beat : (Instr.memoryResponse 0 .ok [1, 2, 3]).wf = false := by decide

theorem test_wf_refuses_long_data : (Instr.buildReadComplete 64 .ok (List.replicate 136 0)).wf = false := by decide +kernel

theorem test_wf_refuses_own_tag_for_controller : (Instr.memoryResponse 64 .ok []).wf = false := by decide

theorem test_wf_refuses_controller_tag_for_own : (Instr.writeBackComplete 63 .ok).wf = false := by decide

/-! ### States for tests -/

/-- The part RUNNING with RESET_N high and its clock running; every table is empty. -/
def running : State :=
  { State.reset with
    resetN := true, part := .running, decoder := .all
    setup := { State.reset.setup with
      windows := { showings := 0x10000, journal := 0x20000, notices := 0x20800, layouts := 0x24000, text := 0x28000,
                   trailers := 0x30000, reports := 0x31000 } }
    start := { State.reset.start with sbase := some 1 }
    clock := { State.reset.clock with running := true, step := some 8589934 } }

/-- A state with memory tag `m` reserved. -/
def reserved (s : State) (m : MemTag) (u : TagUse) : State :=
  { s with traffic := { s.traffic with tags := setAt s.traffic.tags m (some u) } }

/-- The tag use of a live own read of `n` beats, or of a live own write of one. -/
def ownRead (p : OwnPurpose) (n : Nat) : TagUse := { addr := 0, isWrite := false, beats := n, holder := .own p 0 .live }

/-- The tag use of a live own write. -/
def ownWrite (p : OwnPurpose) : TagUse := { addr := 0x10000, isWrite := true, beats := 1, holder := .own p 0 .live }

/-- A forwarded controller request with its commit record. -/
def forwarded (b : Burst) (items : List CommitItem) : InFlight :=
  { burst := b, cls := .pass, plan := .none, commits := items, stage := .forwarded, started := 0 }

/-- A state in which controller tag 0 is in use by a forwarded write with a commit record. -/
def writing (s : State) (items : List CommitItem) : State :=
  let t := reserved s 0 { addr := 0, isWrite := true, beats := 1, holder := .inFlight }
  { t with traffic := { t.traffic with inflight := setAt t.traffic.inflight 0 (some (forwarded (write1 0 7) items)) } }

/-- A view of the next state that a command answers. -/
def got {α : Type} (o : Host.Outcome State Fault Refusal) (f : State → α) : Option α :=
  match o with
  | .next t => some (f t)
  | _ => none

/-- A seat entry ON_SALE with capacity 10, 4 sold and 2 held. -/
def onSale : Seat :=
  { phase := .onSale, title := 3, hall := 2, start := 9000, capacity := 10, sold := 4, held := 2, left := 4,
    changed := 0 }

/-- RUNNING with showing 5 ON_SALE and one hold of 2 seats of desk 1, token 7. -/
def selling : State :=
  { running with
    seats := { running.seats with entries := setAt running.seats.entries 5 onSale }
    holds := setAt running.holds 9 (some { showing := 5, desk := 1, token := 7, seats := 2 }) }

/-- A journal record: showing, action, seats, desk, token 7, life 60. -/
def journalBytes (showing action seats desk : Byte) : List Byte :=
  [showing, action, seats, desk, 7, 0, 60, 0, 0, 0, 0, 0, 0, 0, 0, 1]

/-- A state that awaits the tail fetch. -/
def fetchingTail (s : State) : State :=
  { reserved s 64 (ownRead .journalFetch 2) with journal := { s.journal with fetch := .fetching } }

/-! ### Pins -/

theorem test_reset_takes_power_on_values :
    got (exec .resetNAssert { running with reports := { running.reports with p := 5 } })
      (fun t => (t.resetN, t.reports.p, t.clock.running)) = some (false, 0, false) := by decide +kernel

/-- SBASE 3 puts the Setup Block at 3 × 512 MiB (R183). -/
theorem test_release_reads_the_setup_block :
    got (exec (.resetNRelease 3) State.reset) (fun t => (t.part, ownRequest t .start)) =
      some (.loading, some (.setupRead 0, { isWrite := false, addr := 0x60000000, beats := 16, lanes := [] })) := by
  decide +kernel

theorem test_link_reset_keeps_the_commit_record :
    got (exec .lrstNAssert (writing running [.restart 1]))
      (fun t => (t.traffic.tags.get 0).map fun u => u.holder) = some (some (.afterReset [.restart 1])) := by decide +kernel

theorem test_link_release : got (exec .lrstNRelease { running with lrstN := false }) (fun t => t.lrstN) = some true := by
  decide +kernel

/-! ### The link -/

theorem test_request_queued :
    got (exec (.controllerRequest 7 read1) running) (fun t => t.traffic.queue) = some [7] := by decide +kernel

theorem test_broken_burst_faults :
    (match exec (.controllerRequest 7 { read1 with beats := 0 }) running with
      | .fault r => r == .brokenBurst
      | _ => false) = true := by decide +kernel

/-- RUNNING with one read queued under tag 7. -/
def queued : State :=
  { running with traffic := { running.traffic with
      queue := [7]
      inflight := setAt running.traffic.inflight 7 (some
        { burst := read1, cls := .pass, plan := .none, commits := [], stage := .queued, started := 0 }) } }

/-- A controller request keeps its own tag on the memory side (R158). -/
theorem test_forward_keeps_the_tag :
    got (exec .forwardGrant queued) (fun t => t.memOut.map fun r => r.tag.val) = some [7] := by decide +kernel

theorem test_response_returned :
    got (exec (.memoryResponse 0 .ok []) (writing running [])) (fun t => t.ctlOut.map fun r => r.status) =
      some [.ok] := by decide +kernel

theorem test_broken_response_faults :
    (match exec (.memoryResponse 0 .ok [1]) (writing running []) with
      | .fault r => r == .brokenResponse
      | _ => false) = true := by decide +kernel

/-- The NCO step 8589934 makes the timer 2^32 / (250 × 8589934) = 2 cycles long (R159). -/
theorem test_host_timeout_frees_a_queued_request :
    got (exec (.hostTimeout 7) { queued with traffic := { queued.traffic with cycles := 2 } })
      (fun t => (t.traffic.queue, t.reports.queue.map fun r => r.kind)) = some ([], [.hostTimeout]) := by decide +kernel

theorem test_host_timeout_waits :
    got (exec (.hostTimeout 7) { queued with traffic := { queued.traffic with cycles := 1 } })
      (fun t => t.traffic.queue) = some [7] := by decide +kernel

theorem test_own_timeout_keeps_the_tag :
    got (exec (.ownRequestTimeout 64)
      { reserved running 64 (ownWrite (.writeBack .journal)) with
        traffic := { (reserved running 64 (ownWrite (.writeBack .journal))).traffic with cycles := 2 } })
      (fun t => ((t.traffic.tags.get 64).map fun u => u.holder, t.reports.queue.map fun r => r.kind)) =
      some (some (.own (.writeBack .journal) 0 .timedOut), [.memoryFault]) := by decide +kernel

/-! ### Lobby time -/

theorem test_centi_tick_wraps :
    got (exec .centiTick { running with clock := { running.clock with ticks := 65535, sub := 99 } })
      (fun t => (t.clock.ticks, t.clock.sub, t.clock.secondsDue)) = some (0, 0, 1) := by decide +kernel

theorem test_second_wraps :
    got (exec .lobbySecond { running with clock := { running.clock with now := 1048575, secondsDue := 1 }, part := .transparent })
      (fun t => t.clock.now) = some 0 := by decide +kernel

theorem test_second_withheld_up_to_255 :
    got (exec .lobbySecond
      { running with clock := { running.clock with withheld := 255, secondsDue := 1 }, part := .building })
      (fun t => (t.clock.withheld, t.clock.now)) = some (255, 0) := by decide +kernel

/-- `selling` with panel 0 showing hall 2: line 0 a CLOCK line, line 1 a narrow roster line of rank 0, line 2 a wide one
of rank 1, line 3 a NOTICE line; F 0, Q 3, H 1. -/
def boarded : State :=
  let ln := { Line.unused with alt := 1, soldOut := 2, started := 3 }
  let a := setAt (setAt Layout.empty.lines 0 { ln with kind := .clock }) 1 { ln with kind := .rosterNarrow }
  let b := setAt (setAt a 2 { ln with kind := .rosterWide, rank := 1 }) 3 { ln with kind := .notice, width := 48 }
  let layout : Layout := { Layout.empty with
    lines := b, filter := { halls := 4, inclStarted := false, skipSoldOut := true, f := 0, q := 3, h := 1 } }
  { selling with roster := { selling.roster with layouts := setAt selling.roster.layouts 0 layout } }

/-- The codes of the first cells of a line. -/
def codes (s : State) (l : LineIx) (n : Nat) : List Nat :=
  ((List.finRange 48).take n).map fun c => (cellAt s.roster.targets { panel := 0, line := l, cell := c }).code.toNat

/-- Four seats left of a showing that starts at 9000 s, the minute 150: "02:30 " and "3+ LEFT" right-aligned in ten
cells (R86 to R90). -/
theorem test_narrow_line_shows_its_showing :
    codes (computeLine (assignRoster boarded 0) 0 1) 1 16 =
      [48, 50, 58, 51, 48, 32, 32, 32, 32, 51, 43, 32, 76, 69, 70, 84] := by decide +kernel

/-- The quantizer with F 5, Q 5, H 2 (R88): 5 is exact; 6 is above F and floors to 5, so R is 6; a shown 10 stands from
10 to 16, and gives way at 9 and at 17. -/
theorem test_quantizer :
    ([(5, some 10), (6, none), (9, some 10), (10, some 10), (16, some 10), (17, some 10)].map
      fun x : Nat × Option Nat => (quantize 5 5 2 x.1 x.2).value) = [5, 6, 6, 10, 10, 15] := by decide +kernel

/-- The second that completes the minute 0 at 59 s. -/
def minuteDue : State := { boarded with clock := { boarded.clock with now := 59, secondsDue := 1 } }

/-- At 60 s the CLOCK line shows 00:01 (R70, R90, R91). -/
theorem test_clock_line_at_a_rollover :
    got (exec .lobbySecond minuteDue) (fun t => codes t 0 5) = some [48, 48, 58, 48, 49] := by decide +kernel

/-- Last call 600 s before the start at 9000: at 8400 the phase is LAST_CALL and STARTED is due at 9000 (R21, R22). -/
def lastCallDue : State :=
  { selling with
    setup := { selling.setup with lead := 600, grace := 900 }
    clock := { selling.clock with now := 8400 }
    due := { list := [], batch := [{ key := .phase 5, target := some .lastCall, time := 8400 }] } }

theorem test_phase_fire_enters_last_call :
    got (exec .phaseFire lastCallDue) (fun t => ((t.seats.entries.get 5).phase, t.due.list)) =
      some (.lastCall, [{ key := .phase 5, target := some .started, time := 9000 }]) := by decide +kernel

/-- RUNNING with the hold of entry 9 at the head of the batch. -/
def holdDue : State := { selling with due := { list := [], batch := [{ key := .hold 9, target := none, time := 0 }] } }

theorem test_hold_expire_gives_seats_back :
    got (exec .holdExpire holdDue) (fun t => ((t.seats.entries.get 5).held, (t.seats.entries.get 5).left)) =
      some (0, 6) := by decide +kernel

/-- RUNNING with line notice 4 expiring. -/
def noticeDue : State :=
  { running with
    notices := { running.notices with
      entries := setAt running.notices.entries 4 { Notice.idle with state := .lineActive, seq := 6 } }
    due := { list := [], batch := [{ key := .notice 4, target := none, time := 0 }] } }

theorem test_notice_expire :
    got (exec .noticeExpire noticeDue)
      (fun t => ((t.notices.entries.get 4).state, t.reports.queue.map fun r => r.kind)) =
      some (.idle, [.noticeExpired]) := by decide +kernel

/-- RUNNING with the gap timer at 10 centi-ticks and the tail at 63. -/
def gapAt63 : State :=
  { running with
    journal := { running.journal with tail := 63, marks := setAt running.journal.marks 2 true, gapStart := some 5 }
    clock := { running.clock with ticks := 15 } }

theorem test_gap_timeout_wraps_and_toggles :
    got (exec .gapTimeout gapAt63) (fun t => (t.journal.tail.val, t.journal.lap, t.journal.gapStart)) =
      some (0, .two, some 15) := by decide +kernel

/-- RUNNING with panel 3 SCANNING since centi-tick 65530, now 4: ten centi-ticks later. -/
def idling : State :=
  { running with
    scan := setAt running.scan 3 { PanelScan.idle with scanning := true, lastRow := 8, idleStart := some 65530 }
    clock := { running.clock with ticks := 4 } }

theorem test_pass_idle_timeout :
    got (exec (.passIdleTimeout 3) idling) (fun t => ((t.scan.get 3).scanning, (t.scan.get 3).lastRow)) =
      some (false, 8) := by decide +kernel

/-! ### Own requests -/

/-- The address, beats and tag of the request a command issues. -/
def issued (c : Instr) (s : State) : Option (List (Nat × Nat × Nat)) :=
  got (exec c s) fun t => t.memOut.map fun r => (r.tag.val, r.burst.addr.toNat, r.burst.beats)

/-- RUNNING with title 3 committed. -/
def titleQueued : State :=
  settle { running with commit := { running.commit with
    queue := [.title 3], fetch := running.commit.fetch.set (.title 3) .queued } }

/-- Title 3 lies at TEXT + 16384 + 96, and is fetched in one burst of 4 beats (R12, R185). -/
theorem test_commit_fetch_issue : issued .commitFetchIssue titleQueued = some [(64, 0x2C060, 4)] := by decide +kernel

/-- RUNNING with the tail slot 2 committed. -/
def tailCommitted : State :=
  settle { running with journal := { running.journal with tail := 2, marks := setAt running.journal.marks 2 true } }

/-- Slot 2 lies at JOURNAL + 64 + 32, and is fetched in 2 beats (R42, R184). -/
theorem test_journal_fetch_issue : issued .journalFetchIssue tailCommitted = some [(64, 0x20060, 2)] := by decide +kernel

/-- RUNNING with showing 5 marked for write-back. -/
def showingMarked : State := settle { running with commit := { running.commit with wbShowings := [5] } }

/-- Bytes 32–47 of showing 5, at SHOWINGS + 320 + 32 (R34). -/
theorem test_write_back_issue : issued .writeBackIssue showingMarked = some [(64, 0x10160, 2)] := by decide +kernel

/-- A paint of a glyph 65 at panel 0, line 0, cell 1, at column 16 of row 64 of a frame of stride 512. -/
def paint : Paint :=
  { slot := 0, ref := { panel := 0, line := 0, cell := 1 }, target := { code := 65, pair := 0 }
    fg := { b := 1, g := 2, r := 3, a := 4 }, bg := .zero, x := 16, y := 64, base := 0x80000, stride := 512
    stage := .glyph, glyphIssued := false, glyph := [], rowsIssued := 0, rowsDone := 0, fault := none, void := false
    interrupted := false }

/-- RUNNING with one paint. -/
def painting (p : Paint) : State := settle { running with painter := { running.painter with slots := [p] } }

/-- Glyph 65 lies at TEXT + 65 × 64, and is read in 8 beats (R101). -/
theorem test_glyph_read_issue : issued .glyphReadIssue (painting paint) = some [(64, 0x29040, 8)] := by decide +kernel

/-- Row 3 of the cell: frame base + (64 + 3) × 512 + (16 + 16) × 4 (R101). -/
theorem test_row_write_issue :
    issued .rowWriteIssue (painting { paint with stage := .rows, rowsIssued := 3, glyph := List.replicate 64 0 }) =
      some [(64, 0x88680, 8)] := by decide +kernel

/-- RUNNING with cache entry 2 filling with code 66. -/
def glyphWanted : State :=
  { running with notices := { running.notices with
      cache := setAt running.notices.cache 2 { fill := .filling 66, refs := 1 }, fetchList := [2] } }

theorem test_glyph_fetch_issue : issued .glyphFetchIssue glyphWanted = some [(64, 0x29080, 8)] := by decide +kernel

/-- A report. -/
def aReport : Report := { kind := .ready, time := 9, subject := [], detail := [] }

/-- RUNNING with a report queued and P at 3. -/
def reporting (header : Bool) : State :=
  settle { running with reports :=
    { running.reports with queue := [aReport], p := 3, c := 3, headerQueued := header } }

/-- Slot 3 of the report ring lies at REPORTS + 64 + 48 (R167). -/
theorem test_report_record_write : issued .reportRecordWrite (reporting false) = some [(64, 0x31070, 2)] := by
  decide +kernel

theorem test_report_header_write : issued .reportHeaderWrite (reporting true) = some [(64, 0x31000, 1)] := by
  decide +kernel

/-- LOADING with reads of the Setup Block under way. -/
def loading : State :=
  { State.reset with
    resetN := true, start := { State.reset.start with sbase := some 1, stage := .setupReads, setupIssued := 31 } }

theorem test_setup_read : issued .setupRead loading = some [(64, 0x20000F80, 16)] := by decide +kernel

/-- BUILDING, with `k` reads of the build issued and built. -/
def buildingAt (k : Nat) : State :=
  { running with
    part := .building, start := { running.start with stage := .build, buildIssued := k, buildDone := k } }

theorem test_build_read : issued .buildRead (buildingAt 127) = some [(64, 0x13F80, 16)] := by decide +kernel

/-! ### Answers -/

/-- RUNNING with a fetch of record `r` under way in fetch state `f`. -/
def fetching (r : RecordId) (f : FetchState) : State :=
  let s := reserved running 64 (ownRead (.commitFetch r 0) (fetchShape r).2)
  { s with commit := { s.commit with
      fetches := [{ record := r, issued := 1, taken := [] }], fetch := s.commit.fetch.set r f } }

/-- A rotation table of 32 phases, the first naming item 4 and the others none. -/
theorem test_commit_fetch_complete_rotation :
    got (exec (.commitFetchComplete 64 .ok (4 :: List.replicate 63 255)) (fetching (.rotation 1) .fetching))
      (fun t => ((t.trailers.rotation.get 1).get 0, (t.trailers.rotation.get 1).get 1)) =
      some (some 4, none) := by decide +kernel

theorem test_sell_is_clamped_to_seats_left :
    got (exec (.journalFetchComplete 64 .ok (journalBytes 5 1 16 7)) (fetchingTail selling))
      (fun t => ((t.seats.entries.get 5).sold, (t.seats.entries.get 5).left,
        t.reports.queue.map fun r => r.kind)) = some (8, 0, [.saleClamped, .soldOut]) := by decide +kernel

theorem test_convert_turns_the_hold_into_a_sale :
    got (exec (.journalFetchComplete 64 .ok (journalBytes 5 4 1 1)) (fetchingTail selling))
      (fun t => ((t.seats.entries.get 5).sold, (t.seats.entries.get 5).held, t.holds.get 9)) =
      some (6, 0, none) := by decide +kernel

theorem test_write_back_fault_quiets :
    got (exec (.writeBackComplete 64 .fault)
      { reserved running 64 (ownWrite (.writeBack .journal)) with
        setup := { running.setup with mode := .quiet } }) (fun t => (t.part, t.attnN)) =
      some (.quiet, false) := by decide +kernel

/-- RUNNING with a stale cell at the head of the render queue. -/
def cellQueued : State :=
  { running with painter := { running.painter with queue := [{ panel := 0, line := 0, cell := 1 }] } }

theorem test_cell_take :
    got (exec .cellTake cellQueued) (fun t => (t.painter.queue, t.painter.slots.map fun p => p.target.code)) =
      some ([], [32]) := by decide +kernel

theorem test_glyph_read_response :
    got (exec (.glyphReadResponse 64 .ok (List.replicate 64 0))
      (reserved (painting { paint with glyphIssued := true }) 64 (ownRead (.glyphRead 0) 8)))
      (fun t => t.painter.slots.map fun p => p.stage) = some [.rows] := by decide +kernel

theorem test_last_row_response_ends_the_paint :
    got (exec (.rowWriteResponse 64 .ok)
      (reserved (painting { paint with stage := .rows, rowsIssued := 32, rowsDone := 31 }) 64
        (ownWrite (.rowWrite 0 31)))) (fun t => t.painter.slots.map fun p => p.stage) = some [.ended] := by
  decide +kernel

theorem test_paint_complete :
    got (exec .paintComplete (painting { paint with stage := .ended, rowsIssued := 32, rowsDone := 32 }))
      (fun t => (t.painter.slots, (cellMarks t paint.ref).painted)) = some ([], some paint.target) := by decide +kernel

theorem test_glyph_fetch_complete :
    got (exec (.glyphFetchComplete 64 .ok (List.replicate 64 9))
      (reserved { glyphWanted with notices := { glyphWanted.notices with fetchList := [] } } 64
        (ownRead (.glyphFetch 2) 8))) (fun t => (t.notices.cache.get 2).fill) =
      some (.held 66 (List.replicate 64 9)) := by decide +kernel

theorem test_report_write_complete_wraps :
    got (exec (.reportWriteComplete 64 .ok)
      (reserved { running with reports := { running.reports with queue := [aReport], p := 63, c := 63 } } 64
        (ownWrite .reportRecord))) (fun t => (t.reports.p, t.reports.queue, t.reports.headerQueued)) =
      some (0, [], true) := by decide +kernel

/-- A Setup Block read that faults ends a power-on load in TRANSPARENT (R177). -/
theorem test_setup_read_complete_fault :
    got (exec (.setupReadComplete 64 .fault [])
      (reserved { loading with start := { loading.start with setupGot := List.replicate 31 (0, .fault) } } 64
        (ownRead (.setupRead 31) 16))) (fun t => (t.part, t.decoder)) = some (.transparent, .setupOnly) := by
  decide +kernel

/-- Showing 1, in the upper half of block 0: title 3, hall 2, intent OPEN, start 9000, capacity 10 (R37). -/
def showingBlock : List Byte :=
  List.replicate 64 0 ++ [3, 2, 1, 0, 0x28, 0x23, 0, 0, 10, 0] ++ List.replicate 54 0

theorem test_build_read_complete :
    got (exec (.buildReadComplete 64 .ok showingBlock) (reserved (buildingAt 0) 64 (ownRead (.buildRead 0) 16)))
      (fun t => ((t.seats.entries.get 1).phase, (t.seats.entries.get 1).left, (t.seats.sellable.get 3))) =
      some (.onSale, 10, 1) := by decide +kernel

/-- RESTARTING at stage 1. -/
def restarting : State := { running with part := .restarting }

theorem test_restart_reload_reads_the_setup_block :
    got (exec .restartReload restarting) (fun t => (t.start.stage, ownRequest t .start)) =
      some (.setupReads, some (.setupRead 0, readBurst 0x20000000 16)) := by decide +kernel

/-- The slot of a paint is given up at stage 1, and its place is queued again with content UNKNOWN (R109, log 52). -/
theorem test_restart_reload_frees_the_slots :
    got (exec .restartReload { boarded with part := .restarting, painter := { boarded.painter with
        slots := [{ paint with ref := { panel := 0, line := 0, cell := 4 } }] } })
      (fun t => (t.painter.slots, t.painter.queue)) = some ([], [{ panel := 0, line := 0, cell := 4 }]) := by
  decide +kernel

/-- Under resume the sold count of 300 is clamped to the capacity of 10, with RESUME_CLAMP (R37). -/
theorem test_build_read_clamps_sold :
    got (exec (.buildReadComplete 64 .ok
        ([3, 2, 1, 0, 0x28, 0x23, 0, 0, 10, 0] ++ List.replicate 26 0 ++ [44, 1] ++ List.replicate 90 0))
        (reserved { buildingAt 0 with start := { (buildingAt 0).start with resume := true } } 64
          (ownRead (.buildRead 0) 16)))
      (fun t => ((t.seats.entries.get 0).sold, (t.seats.entries.get 0).left, t.reports.queue.map fun x => x.detail)) =
      some (10, 0, [[5, 44, 1, 10, 0]]) := by decide +kernel

/-! ### The step -/

theorem test_carry_queues_a_centi_tick :
    got (step { running with clock := { running.clock with acc := 4294967295 } }) (fun t => t.pending) =
      some [.centiTick] := by decide +kernel

/-! ### Witnesses: for each statement a state and operands that meet its hypotheses, at the ends of its clauses -/

/-- A state after 2000 cycles, in which every response timer that runs has expired. -/
def later (s : State) : State := { s with traffic := { s.traffic with cycles := 2000 } }

/-- A live read of `n` beats under tag 64 can end in each way: with an OK, with a FAULT, and by its timer. -/
def endsEachWay (s : State) (p : OwnPurpose) (n : Nat) (answer : Status → List Byte → Instr) : Prop :=
  (∀ data : List Byte, data.length = 8 * n → ∃ ended,
    readEnds s 64 (ownRead p n) p answer (answer .ok data) (.ok data) ended) ∧
  (∃ ended, readEnds s 64 (ownRead p n) p answer (answer .fault []) .fault ended) ∧
  ∃ ended, readEnds s 64 (ownRead p n) p answer (.ownRequestTimeout 64) .fault ended

theorem later_ends (s : State) (p : OwnPurpose) (n : Nat) (answer : Status → List Byte → Instr) (r : s.resetN = true)
    (g : s.traffic.tags.get 64 = some (ownRead p n)) (l : s.timerLength ≤ 2000) :
    endsEachWay (later s) p n answer :=
  ⟨fun data h => ⟨_, r, g, 0, rfl, .inl ⟨.ok, data, rfl, by simp [answerWf, ownRead, h], rfl, rfl⟩⟩,
    ⟨_, r, g, 0, rfl, .inl ⟨.fault, [], rfl, rfl, rfl, rfl⟩⟩, ⟨_, r, g, 0, rfl, .inr ⟨rfl, l, rfl, rfl⟩⟩⟩

theorem witness_ReferenceCycleAndCentiTick :
    running.pending = [] ∧ running.resetN = true ∧ running.clock.running = true ∧
      running.clock.step = some 8589934 ∧ running.clock.sub ≠ 99 ∧
      ({ running with clock := { running.clock with sub := 99 } } : State).clock.sub = 99 := by decide +kernel

theorem witness_PowerOnResetAndRelease : State.reset.resetN = false ∧ State.reset.start.setupIssued = 0 := by
  decide +kernel

/-- A controller write in use under tag 0 and an own read under tag 64. -/
def mixed : State := reserved (writing running [.restart 1]) 64 (ownRead .journalFetch 2)

theorem witness_LinkReset :
    mixed.lrstN = true ∧ mixed.traffic.tags.get 5 = none ∧
      (mixed.traffic.tags.get 64 = some (ownRead .journalFetch 2) ∧ (ownRead .journalFetch 2).holder ≠ .inFlight) ∧
      mixed.traffic.tags.get 0 = some { addr := 0, isWrite := true, beats := 1, holder := .inFlight } ∧
      mixed.traffic.inflight.get (ctlTagOf 0) = some (forwarded (write1 0 7) [.restart 1]) := by decide +kernel

/-- RUNNING with 15 requests queued. -/
def nearlyFull : State :=
  { running with traffic := { running.traffic with queue := (List.range 15).map fun k => Fin.ofNat 64 (k + 1) } }

theorem witness_RequestAtThePort :
    nearlyFull.resetN = true ∧ nearlyFull.lrstN = true ∧ nearlyFull.part ≠ .loading ∧
      nearlyFull.traffic.queue.length < 16 ∧ read1.wf = true ∧ nearlyFull.traffic.inflight.get 0 = none ∧
      (∀ p row off, classify nearlyFull read1.addr.toNat = .panelFrame p row off → read1.isWrite = true ∨
        nearlyFull.active = false ∨ (nearlyFull.setup.panels.get p).width * 4 ≤ off) := by
  have h : classify nearlyFull read1.addr.toNat = .pass := by decide +kernel
  refine ⟨rfl, rfl, by decide, by decide, by decide, by decide +kernel, ?_⟩
  intro p row off k
  rw [h] at k
  cases k

/-- RUNNING with panel 0 of 16 × 32 pixels at 0x80000, its rows 128 bytes apart. -/
def screened : State :=
  { running with
    setup := { running.setup with
      panels := setAt running.setup.panels 0
        { enabled := true, width := 16, height := 32, base := 0x80000, stride := 128 } } }

/-- A read of one beat at an address. -/
def readAt (a : BitVec 32) : Burst := { isWrite := false, addr := a, beats := 1, lanes := [] }

theorem witness_RequestAtThePort_beside_the_pixels :
    classify screened (readAt 0x80040).addr.toNat = .panelFrame 0 0 64 ∧
      (screened.setup.panels.get 0).width * 4 ≤ 64 := by decide +kernel

/-- `screened` with panel 0 SCANNING at row 5. -/
def scanningAt5 : State :=
  { screened with
    scan := setAt screened.scan 0 { PanelScan.idle with scanning := true, lastRow := 5, idleStart := some 0 } }

theorem witness_PanelReadScanned :
    screened.resetN = true ∧ screened.lrstN = true ∧ screened.active = true ∧ screened.traffic.queue.length < 16 ∧
      (readAt 0x802B8).wf = true ∧ screened.traffic.inflight.get 0 = none ∧ (readAt 0x802B8).isWrite = false ∧
      classify screened (readAt 0x802B8).addr.toNat = .panelFrame 0 5 56 ∧
      56 < (screened.setup.panels.get 0).width * 4 ∧ (screened.scan.get 0).scanning = false := by decide +kernel

theorem witness_PanelReadScanned_in_a_pass :
    classify scanningAt5 (readAt 0x802B8).addr.toNat = .panelFrame 0 5 56 ∧ (scanningAt5.scan.get 0).scanning = true ∧
      (scanningAt5.scan.get 0).lastRow ≤ 5 ∧
      classify scanningAt5 (readAt 0x80238).addr.toNat = .panelFrame 0 4 56 ∧
      4 < (scanningAt5.scan.get 0).lastRow := by decide +kernel

/-- A banner of one code for the panels of a mask, of a priority and post sequence number, in a state. -/
def banner (state : NoticeState) (mask : BitVec 24) (priority : Nat) (seq : BitVec 32) : Notice :=
  { state := state, seq := seq, entries := [(65, 2)]
    fields := { text := List.replicate 48 65, kind := .banner, priority := priority, length := 1, mask := mask
                lifetime := 0 } }

/-- RUNNING with two READY banners of code 65 for panel 0, whose mask cache entry 2 holds. -/
def bannered : State :=
  { screened with notices := { screened.notices with
      entries := setAt (setAt screened.notices.entries 3 (banner .bannerReady 1 2 7)) 4 (banner .bannerReady 1 2 8)
      cache := setAt screened.notices.cache 2 { fill := .held 65 (List.replicate 64 9), refs := 2 } } }

/-- Of two banners of one priority the newer is offered; a panel that no mask marks is offered none. -/
theorem witness_PanelReadScanned_offers :
    bannerOffered bannered.notices 0 = some 4 ∧ bannerOffered bannered.notices 23 = none := by decide +kernel

theorem witness_RequestAtThePort_with_a_tag_in_use :
    (writing running []).resetN = true ∧ (writing running []).lrstN = true ∧ (writing running []).part ≠ .loading ∧
      (writing running []).traffic.queue.length < 16 ∧ read1.wf = true ∧
      (writing running []).traffic.inflight.get 0 = some (forwarded (write1 0 7) []) ∧
      acceptsReports (writing running []) 1 :=
  ⟨rfl, rfl, by decide, by decide, by decide, by decide +kernel, by decide, by decide, by decide +kernel⟩

/-- The last report that the ring has room for, the first that it has not, and one in TRANSPARENT (R166). -/
theorem witness_RequestAtThePort_reports :
    acceptsReports { running with reports := { running.reports with p := 62 } } 1 ∧
      63 ≤ (({ running.reports with p := 63 } : ReportUnit).p - running.reports.c).toNat + running.reports.queue.length ∧
      ({ running with part := .transparent } : State).part ≠ .loading :=
  ⟨⟨by decide, by decide, by decide +kernel⟩, by decide +kernel, by decide⟩

/-- RUNNING with 16 requests queued. -/
def full : State :=
  { running with traffic := { running.traffic with queue := (List.range 16).map fun k => Fin.ofNat 64 k } }

theorem witness_RequestAtThePort_takes_nothing :
    State.reset.resetN = false ∧ ({ running with lrstN := false } : State).lrstN = false ∧ loading.part = .loading ∧
      16 ≤ full.traffic.queue.length := by decide +kernel

/-- `queued` with a write-back ready. -/
def queuedBeside : State := settle { queued with commit := { queued.commit with wbShowings := [5] } }

/-- The entry that `queued` holds. -/
def queuedEntry : InFlight :=
  { burst := read1, cls := .pass, plan := .none, commits := [], stage := .queued, started := 0 }

theorem witness_HeadForwarded :
    queued.resetN = true ∧ arbiterPick queued = some .controller ∧ headEntry queued = some (7, queuedEntry) ∧
      queuedEntry.burst.isWrite = false ∧ (∀ r, ownReady queued r = false) := by
  refine ⟨rfl, by decide +kernel, by decide +kernel, rfl, ?_⟩
  intro r
  cases r <;> decide +kernel

/-- The forwarded addresses of a REDIRECT and of another plan. -/
theorem witness_HeadForwarded_addresses :
    ({ queuedEntry with plan := .redirect 0x90038 } : InFlight).plan = .redirect 0x90038 ∧
      ∀ a, queuedEntry.plan ≠ .redirect a := by simp [queuedEntry]

theorem witness_HeadForwarded_beside_an_own_request :
    arbiterPick queuedBeside = some .controller ∧ headEntry queuedBeside = some (7, queuedEntry) ∧
      ownReady queuedBeside .commit = true := by decide +kernel

/-- A queued write of a class. -/
def queuedWrite (cls : ReqClass) : InFlight := { queuedEntry with burst := write1 0x80000 7, cls := cls }

/-- A state with a queued write of a class at the head. -/
def writeAtHead (s : State) (cls : ReqClass) : State :=
  { s with traffic := { s.traffic with
      queue := [7], inflight := setAt s.traffic.inflight 7 (some (queuedWrite cls)) } }

theorem witness_PartOwnedBytesSubstituted :
    running.part = .running ∧ (write1 0 7).lanes[7]? = some (some 7) ∧
      ownedByte running .showings 31 = none ∧ ownedByte running .showings 32 = some 0 ∧
      ownedByte running .showings 47 = some 0 ∧ ownedByte running .showings 48 = none ∧
      ownedByte running .reports 1 = some 0 ∧ (write1 0 0).lanes[1]? = some (some 0) ∧
      loading.part ≠ .running ∧ loading.part ≠ .quiet := by decide +kernel

/-- The header bytes and the first bytes after them, and the ends of the status words (R3, R39, R145, R187). -/
theorem witness_PartOwnedBytesSubstituted_of_the_headers :
    let s : State := { running with
      journal := { running.journal with tail := 63, lap := .two }
      reports := { running.reports with p := 63, overflow := true } }
    ([0, 1, 2].map (ownedByte s .journal) = [some 63, some 2, none]) ∧
      ([0, 1, 2].map (ownedByte s .reports) = [some 63, some 1, none]) ∧
      ([2047, 2048, 2049, 2051, 2052, 2063, 2111, 2112].map (ownedByte s .trailers) =
        [none, some 0, some 255, some 255, some 0, some 0, some 0, none]) ∧
      (s.setup.streams.get 0).enabled = false := by decide +kernel

theorem witness_ArbiterChoice :
    headReady queued = true ∧ (headReady queuedBeside = true ∧ ownReady queuedBeside .commit = true ∧
      queuedBeside.traffic.grants < 8) ∧
      (ownReady showingMarked .commit = true ∧ headReady showingMarked = false) ∧
      headReady running = false := by decide +kernel

/-- A write into a window at the head, held in BUILDING and RESTARTING alone; a head under whose block a write is
outstanding, and one whose tag is taken (R16, R157). -/
theorem witness_ArbiterChoice_of_a_head :
    let s := writeAtHead running (.windowUnused .journal)
    let e := queuedWrite (.windowUnused .journal)
    (∀ p ∈ [PartState.building, .restarting], heldWrite { s with part := p } e = true ∧
      headReady { s with part := p } = false) ∧
      heldWrite { s with part := .building } { e with burst := read1 } = false ∧
      headReady s = true ∧ headReady (reserved s 100 { ownWrite .reportRecord with addr := 0x8007F }) = false ∧
      headReady (reserved s 7 (ownRead .journalFetch 2)) = false := by decide +kernel

/-- An own request whose block a write holds, one beside that block, and one without a free own tag (R163). -/
theorem witness_ArbiterChoice_of_an_own_request :
    let s := showingMarked
    ownReady s .commit = true ∧
      ownReady (reserved s 100 { ownWrite .reportRecord with addr := 0x10100 }) .commit = false ∧
      ownReady (reserved s 100 { ownWrite .reportRecord with addr := 0x10180 }) .commit = true ∧
      ownReady { s with traffic := { s.traffic with
        tags := Vector.replicate 128 (some (ownRead .journalFetch 2)) } } .commit = false := by decide +kernel

/-- The command, the requester and the purpose of a grant, with the hypotheses of `OwnRequestIssued` checked. -/
def grantable? (c : Instr) (s : State) : Bool :=
  match issuedKind c, arbiterPick s with
  | some mine, some (.own r) =>
    match ownRequest s r with
    | some (p, _) => s.resetN && mine p && (freeOwnTag s).isSome
    | none => false
  | _, _ => false

theorem witness_OwnRequestIssued :
    grantable? .commitFetchIssue titleQueued = true ∧ grantable? .journalFetchIssue tailCommitted = true ∧
      grantable? .writeBackIssue showingMarked = true ∧ grantable? .glyphReadIssue (painting paint) = true ∧
      grantable? .rowWriteIssue (painting { paint with stage := .rows, rowsIssued := 3 }) = true := by decide +kernel

theorem witness_OwnRequestIssued_of_the_other_requesters :
    grantable? .glyphFetchIssue glyphWanted = true ∧ grantable? .reportRecordWrite (reporting false) = true ∧
      grantable? .reportHeaderWrite (reporting true) = true ∧ grantable? .setupRead loading = true ∧
      grantable? .buildRead (buildingAt 127) = true := by decide +kernel

/-- The last row of a glyph and its last pixel. -/
theorem witness_OwnRequestIssued_of_a_row : (31 : Nat) < 32 ∧ (15 : Nat) < 16 := by decide

/-! #### What the requesters offer -/

/-- The address and beats of Start and Containment's next read. -/
def nextRead (s : State) : Option (Nat × Nat) := (ownRequest s .start).map fun x => (x.2.addr.toNat, x.2.beats)

/-- The first and the last read of each table, and none after the last: without resume, and where the journal's nine
stand before the titles under resume (R178, log 13). -/
theorem witness_RequestersOffer_build :
    ([0, 127, 128, 143, 144, 239, 240, 255, 256, 261, 262, 263, 264].map fun k => nextRead (buildingAt k)) =
        [some (0x10000, 16), some (0x13F80, 16), some (0x2C000, 16), some (0x2C780, 16), some (0x24000, 16),
          some (0x26F80, 16), some (0x20800, 16), some (0x20F80, 16), some (0x30000, 16), some (0x30280, 16),
          some (0x30400, 16), some (0x30480, 16), none] ∧
      (let s (k : Nat) : State := { buildingAt k with start := { (buildingAt k).start with resume := true } }
       [127, 128, 136, 137, 272, 273].map fun k => nextRead (s k)) =
        [some (0x13F80, 16), some (0x20000, 16), some (0x20400, 8), some (0x2C000, 16), some (0x30480, 16), none] := by
  decide +kernel

/-- The last read of the Setup Block and none after it; none of a part that is not loading, and none at stage 1. -/
theorem witness_RequestersOffer_setup :
    (loading.start.stage = .setupReads ∧ loading.part = .loading ∧ loading.start.setupIssued < 32) ∧
      32 ≤ ({ loading.start with setupIssued := 32 } : Start).setupIssued ∧
      (running.part ≠ .loading ∧ running.part ≠ .restarting ∧ running.part ≠ .building) ∧
      restarting.start.stage = .wait := by decide +kernel

/-- RUNNING with layout 2 committed. -/
def layoutQueued : State :=
  settle { running with commit := { running.commit with
    queue := [.layout 2], fetch := running.commit.fetch.set (.layout 2) .queued } }

/-- RUNNING with two of the four bursts of a fetch of layout 2 issued. -/
def layoutHalfway : State :=
  { running with
    commit := { running.commit with fetches := [{ record := .layout 2, issued := 2, taken := [] }] }
    offers := { running.offers with commit := [.burst (.layout 2)] } }

/-- Each kind of offer at the head of its requester's. -/
theorem witness_RequestersOffer :
    (running.offers.commit.head? = none ∧ running.offers.painter = none ∧ running.offers.report = none ∧
      running.notices.fetchList = []) ∧
      (titleQueued.offers.commit.head? = some .fetch ∧ titleQueued.commit.queue.head? = some (.title 3)) ∧
      layoutHalfway.offers.commit.head? = some (.burst (.layout 2)) ∧
      tailCommitted.offers.commit.head? = some .journal ∧
      showingMarked.offers.commit.head? = some (.writeBack (.showing 5)) ∧
      (painting paint).offers.painter = some (.glyph 0) ∧
      (painting { paint with stage := .rows, rowsIssued := 3 }).offers.painter = some (.row 0) ∧
      (reporting true).offers.report = some .header ∧
      ((reporting false).offers.report = some .record ∧ (reporting false).reports.queue ≠ []) ∧
      (glyphWanted.active = true ∧ liveOwns glyphWanted OwnPurpose.isGlyphFetch < 4 ∧
        glyphWanted.notices.fetchList.head? = some 2) := by decide +kernel

/-- The next burst of a layout comes first after bursts 0 and 2. -/
theorem witness_RequestersOffer_bursts :
    ∀ x ∈ [(layoutQueued, 0), (layoutHalfway, 2)], x.1.resetN = true ∧ x.1.active = true ∧
      arbiterPick x.1 = some (.own .commit) ∧ (freeOwnTag x.1).isSome = true ∧
      (ownRequest x.1 .commit).map (·.1) = some (.commitFetch (.layout 2) x.2) ∧ x.2 < 3 ∧
      (x.2 = 0 → x.1.commit.fetches = []) := by decide +kernel

/-- A command that changes the state and leaves RESET_N high: the journal offer is gone and no other comes. -/
theorem witness_RequestersOffer_chosen :
    got (exec .journalFetchIssue tailCommitted) (fun t => (t.resetN, t.offers.commit)) = some (true, []) ∧
      tailCommitted.offers.commit ≠ [] := by decide +kernel

/-- A tail slot and a title both committed, the journal fetch chosen first: it stays first though the record fetch joins,
and is what a grant takes; a fetch's next burst takes its place (R162, R163). -/
theorem witness_RequestersOffer_kept :
    let s : State := { tailCommitted with commit := titleQueued.commit }
    s.offers.commit = [.journal] ∧ commitLeft s .centiTick = [.journal] ∧
      got (exec .centiTick s) (fun t => t.offers.commit) = some [.journal, .fetch] ∧
      grantOf s .journalFetchIssue = some (.commit, .journalFetch) ∧ commitLeft s .journalFetchIssue = [] ∧
      got (exec .journalFetchIssue s) (fun t => t.offers.commit) = some [.fetch] ∧
      commitLeft layoutHalfway .commitFetchIssue = [.burst (.layout 2)] := by decide +kernel

/-- A row write chosen while the second slot waits for its glyph: it stays until its grant, and then the glyph read is
offered (R102, R162). -/
theorem witness_RequestersOffer_paint_kept :
    let s : State := { painting { paint with stage := .rows, rowsIssued := 3 } with
      painter := { running.painter with slots :=
        [{ paint with stage := .rows, rowsIssued := 3 }, { paint with slot := 1 }] } }
    paintLeft s .centiTick = some (.row 0) ∧
      got (exec .centiTick s) (fun t => t.offers.painter) = some (some (.row 0)) ∧
      paintLeft s .rowWriteIssue = none ∧
      got (exec .rowWriteIssue s) (fun t => t.offers.painter) = some (some (.glyph 1)) := by decide +kernel

/-- A record write chosen before the header is marked: it stays while a write to the block of slot 3 is outstanding,
beside that block it gives way, and once granted it is gone (R162, R167, log 9). -/
theorem witness_RequestersOffer_report_kept :
    let s : State := { reporting false with reports := (reporting true).reports }
    let busy (a : BitVec 32) : State := reserved s 3 { addr := a, isWrite := true, beats := 1, holder := .inFlight }
    reportLeft s .centiTick = some .record ∧
      got (exec .centiTick (busy 0x31078)) (fun t => t.offers.report) = some (some .record) ∧
      got (exec .centiTick (busy 0x31080)) (fun t => t.offers.report) = some (some .header) ∧
      reportLeft s .reportRecordWrite = none := by decide +kernel

/-- A response to `writing s items` is one to a request in use. -/
theorem writing_answered (s : State) (items : List CommitItem) (h : s.resetN = true) (st : Status) :
    answeredInUse (writing s items) 0 { addr := 0, isWrite := true, beats := 1, holder := .inFlight }
      (forwarded (write1 0 7) items) st [] :=
  ⟨h, get_setAt_self _ _ _, rfl, get_setAt_self _ _ _, rfl⟩

/-- A record without items and one of two, in RUNNING and in TRANSPARENT, answered OK and FAULT. -/
theorem witness_ResponseReturned (st : Status) (part : PartState) :
    let s : State := { running with part := part }
    let two : List CommitItem := [.revision (.showing 4) 7, .revision (.showing 5) 7]
    answeredInUse (writing s []) 0 { addr := 0, isWrite := true, beats := 1, holder := .inFlight }
        (forwarded (write1 0 7) []) st [] ∧ (forwarded (write1 0 7) []).commits = [] ∧
      answeredInUse (writing s two) 0 { addr := 0, isWrite := true, beats := 1, holder := .inFlight }
        (forwarded (write1 0 7) two) st [] ∧ (forwarded (write1 0 7) two).commits = two ∧
      (writing s two).part = part ∧ (∀ v, .restart v ∉ two) :=
  ⟨writing_answered _ _ rfl _, rfl, writing_answered _ _ rfl _, rfl, rfl, by simp⟩

/-- A tag whose entry a link reset dropped, one whose timer had expired, and one that is not reserved. -/
theorem witness_ResponseReturned_without_an_entry (h : Holder) (st : Status) :
    let u : TagUse := { addr := 0, isWrite := true, beats := 1, holder := h }
    (reserved running 0 u).resetN = true ∧ (reserved running 0 u).traffic.tags.get 0 = some u ∧ u.holder = h ∧
      answerWf u st [] = true ∧ running.traffic.tags.get 0 = none :=
  ⟨rfl, get_setAt_self _ _ _, rfl, by cases st <;> rfl, by decide +kernel⟩

/-- An own request of any purpose that has timed out, or is only waited for, and an OK answer to it; the same tag when it
is not reserved. -/
theorem witness_ResponseReturned_to_no_requester (p : OwnPurpose) (os : OwnStatus) (h : os = .timedOut ∨ os = .dropped) :
    let u : TagUse := { addr := 0, isWrite := p.isWrite, beats := 1, holder := .own p 0 os }
    let data : List Byte := if p.isWrite then [] else List.replicate 8 0
    (reserved running 64 u).resetN = true ∧ (reserved running 64 u).traffic.tags.get 64 = some u ∧ os ≠ .live ∧
      answerWf u .ok data = true ∧ (p.isWrite = true → data = []) ∧ running.traffic.tags.get 64 = none :=
  ⟨rfl, get_setAt_self _ _ _, by rcases h with rfl | rfl <;> decide, by cases p <;> rfl,
    fun h => if_pos h, get_replicate _ _⟩

/-- RUNNING with the fetch state of title 3. -/
def titleState (f : FetchState) : State :=
  { running with commit := { running.commit with fetch := running.commit.fetch.set (.title 3) f } }

theorem witness_RevisionCommitted (f : FetchState) :
    answeredInUse (writing (titleState f) [.revision (.title 3) 1]) 0
        { addr := 0, isWrite := true, beats := 1, holder := .inFlight }
        (forwarded (write1 0 7) [.revision (.title 3) 1]) .ok [] ∧
      (writing (titleState f) [.revision (.title 3) 1]).active = true ∧
      (writing (titleState f) [.revision (.title 3) 1]).commit.revs.get (.title 3) ≠ 1 ∧
      (writing (titleState f) [.revision (.title 3) 1]).commit.revs.get (.title 3) = 0 ∧
      (writing (titleState f) [.revision (.title 3) 1]).commit.fetch.get (.title 3) = f := by
  refine ⟨writing_answered _ _ rfl _, rfl, ?_⟩
  cases f <;> decide +kernel

/-- RUNNING with the tail at slot 1. -/
def tailAt1 : State := { running with journal := { running.journal with tail := 1 } }

theorem witness_JournalMarkerTaken :
    answeredInUse (writing tailAt1 [.lap 0 1]) 0 { addr := 0, isWrite := true, beats := 1, holder := .inFlight }
        (forwarded (write1 0 7) [.lap 0 1]) .ok [] ∧ (writing tailAt1 [.lap 0 1]).active = true ∧
      (1 : Byte).toNat = tailAt1.journal.lap.code ∧ (0 : JournalIx) < tailAt1.journal.tail ∧
      (2 : Byte).toNat = (expectedLap tailAt1.journal 0).code ∧
      (1 : Byte).toNat = (expectedLap tailAt1.journal 1).code ∧
      ((3 : Byte).toNat ≠ (expectedLap tailAt1.journal 0).code ∧ (3 : Byte).toNat ≠ tailAt1.journal.lap.code) ∧
      ((2 : Byte).toNat ≠ (expectedLap tailAt1.journal 1).code ∧ tailAt1.journal.tail ≤ (1 : JournalIx)) :=
  ⟨writing_answered _ _ rfl _, rfl, by decide +kernel⟩

/-- A marked tail slot under its fetch; and a slot behind an unmarked tail, with the gap timer stopped and running. -/
theorem witness_JournalMarkerTaken_marks :
    let fetched := { tailAt1.journal with marks := setAt tailAt1.journal.marks 1 true, fetch := .fetching }
    fetched.marks.get 1 = true ∧ fetched.fetch = .fetching ∧ tailAt1.journal.marks.get 1 = false ∧
      tailAt1.journal.gapStart = none ∧ ({ tailAt1.journal with gapStart := some 5 } : Journal).gapStart = some 5 := by
  decide +kernel

theorem witness_ReportFieldsWritten (v : Byte) :
    answeredInUse (writing running [.consumer v]) 0 { addr := 0, isWrite := true, beats := 1, holder := .inFlight }
        (forwarded (write1 0 7) [.consumer v]) .ok [] ∧
      answeredInUse (writing running [.overflow v]) 0 { addr := 0, isWrite := true, beats := 1, holder := .inFlight }
        (forwarded (write1 0 7) [.overflow v]) .ok [] ∧ running.active = true :=
  ⟨writing_answered _ _ rfl _, writing_answered _ _ rfl _, rfl⟩

theorem witness_RestartRequested :
    (answeredInUse (writing running [.restart 0]) 0 { addr := 0, isWrite := true, beats := 1, holder := .inFlight }
        (forwarded (write1 0 7) [.restart 0]) .ok [] ∧ running.part ≠ .loading ∧ running.commit.lastRestart = 0) ∧
      (answeredInUse (writing running [.restart 255]) 0 { addr := 0, isWrite := true, beats := 1, holder := .inFlight }
        (forwarded (write1 0 7) [.restart 255]) .ok [] ∧ running.commit.lastRestart ≠ 255 ∧
        running.part ≠ .restarting) ∧
      (answeredInUse (writing restarting [.restart 1]) 0
        { addr := 0, isWrite := true, beats := 1, holder := .inFlight }
        (forwarded (write1 0 7) [.restart 1]) .ok [] ∧ restarting.commit.lastRestart ≠ 1 ∧
        restarting.part = .restarting ∧ restarting.start.stage = .wait) :=
  ⟨⟨writing_answered _ _ rfl _, by decide, rfl⟩, ⟨writing_answered _ _ rfl _, by decide, by decide⟩,
    writing_answered _ _ rfl _, by decide, rfl, rfl⟩

/-- RUNNING with stream 2 enabled, slot 1 newest and latched by one pass. -/
def streaming : State :=
  { running with
    setup := { running.setup with
      streams := setAt running.setup.streams 2
        { enabled := true, width := 32, height := 1, stride := 128, slots := Vector.replicate 4 0x90000 } }
    trailers := { running.trailers with
      streams := setAt running.trailers.streams 2
        { Stream.empty with
          slots := setAt Stream.empty.slots 1
            { state := .complete, newest := true, latches := 1, item := some 4 } } } }

/-- The writes that are handed off, to a panel's pixel columns and to those of an enabled stream and of a disabled one.
-/
theorem witness_HeadForwarded_of_a_write :
    (∀ cls ∈ [ReqClass.panelFrame 0 0 0, .slotPixels 2 1 0 0, .slotPixels 2 0 0 128, .slotPixels 0 3 0 0],
      (writeAtHead streaming cls).resetN = true ∧ (writeAtHead streaming cls).part = .running ∧
      headEntry (writeAtHead streaming cls) = some (7, queuedWrite cls) ∧
      arbiterPick (writeAtHead streaming cls) = some .controller) ∧
      ((streaming.setup.streams.get 2).enabled = true ∧ (streaming.setup.streams.get 2).width * 4 = 128 ∧
        ((streaming.trailers.streams.get 2).slots.get 1).state = .complete ∧
        0 < ((streaming.trailers.streams.get 2).slots.get 1).latches ∧
        ((streaming.trailers.streams.get 2).slots.get 0).state = .free) ∧
      (streaming.setup.streams.get 0).enabled = false := by decide +kernel

/-- A write of columns 0 and 1 of row 31 reaches cell 0 of a line at the origin, and not cell 1. -/
theorem witness_HeadForwarded_hits :
    cellHit { Line.unused with kind := .clock } 0 31 (writtenColumns (write1 0x80000 7) 0 16) = true ∧
      cellHit { Line.unused with kind := .clock } 1 31 (writtenColumns (write1 0x80000 7) 0 16) = false ∧
      cellHit { Line.unused with kind := .clock } 0 32 (writtenColumns (write1 0x80000 7) 0 16) = false := by
  decide +kernel

theorem witness_FrameTagCommitted :
    answeredInUse (writing streaming [.tag 2 3 0 (some (List.replicate 8 4))]) 0
        { addr := 0, isWrite := true, beats := 1, holder := .inFlight }
        (forwarded (write1 0 7) [.tag 2 3 0 (some (List.replicate 8 4))]) .ok [] ∧
      answeredInUse (writing streaming [.tag 2 3 0 none]) 0
        { addr := 0, isWrite := true, beats := 1, holder := .inFlight }
        (forwarded (write1 0 7) [.tag 2 3 0 none]) .ok [] ∧
      streaming.part ≠ .loading ∧ streaming.part ≠ .transparent ∧ (streaming.setup.streams.get 2).enabled = true ∧
      streaming.active = true ∧ ({ streaming with part := .building } : State).active = false ∧
      ((streaming.trailers.streams.get 2).slots.get 1).newest = true ∧
      0 < ((streaming.trailers.streams.get 2).slots.get 1).latches ∧
      ((streaming.trailers.streams.get 2).slots.get 0).newest = false :=
  ⟨writing_answered _ _ rfl _, writing_answered _ _ rfl _, by decide +kernel⟩

/-- `streaming` with item 4 current with `n` frames remaining, a cue or none, and phase 31 of the rotation naming item
4, which is enabled and linked to no title. -/
def playing (n : Nat) (cue : Option CatalogIx) : State :=
  { streaming with
    trailers := { streaming.trailers with
      streams := modAt streaming.trailers.streams 2 fun x =>
        { x with current := some 4, remaining := n, cued := cue, pointer := 31 }
      catalog := setAt streaming.trailers.catalog 4 { enabled := true, linked := none, frames := 100 }
      rotation := setAt streaming.trailers.rotation 2 (setAt (Vector.replicate 32 none) 31 (some 4)) } }

/-- A tag of item 4 plays it while frames remain, and starts it as the cued item when none do; 48 frames ask for a cue
and 49 do not (R144, R150). -/
theorem witness_FrameTagCommitted_counts :
    indexOrNone 48 (u8 (List.replicate 8 4) 0) = some (4 : CatalogIx) ∧
      0 < ((playing 1 none).trailers.streams.get 2).remaining ∧
      (((playing 0 (some 4)).trailers.streams.get 2).remaining = 0 ∧
        ((playing 0 (some 4)).trailers.streams.get 2).cued = some 4) ∧
      ((playing 49 none).trailers.streams.get 2).remaining - 1 ≤ 48 ∧
      48 < ((playing 50 none).trailers.streams.get 2).remaining - 1 := by decide +kernel

/-- A pick of the first phase examined, and one of the house reel when no phase is eligible (R149). -/
theorem witness_FrameTagCommitted_picks :
    ((playing 0 none).trailers.rotation.get 2).get 31 = some 4 ∧
      ((playing 0 none).trailers.catalog.get 4).enabled = true ∧
      (∀ q, ((streaming.trailers.rotation.get 2).get q) = none) := by decide +kernel

/-- A tag that frees the slot that was newest, and one that leaves the free set, the presented slot and the items: the
status word is marked by the first alone (R143). -/
theorem witness_FrameTagCommitted_marks :
    let unlatched : State := { streaming with trailers := { streaming.trailers with
      streams := modAt streaming.trailers.streams 2 fun x =>
        { x with slots := setAt x.slots 1 { x.slots.get 1 with latches := 0 } } } }
    let marks (k : FrameIx) := got (exec (.memoryResponse 0 .ok [])
      (writing unlatched [.tag 2 k 0 (some (List.replicate 8 9))])) fun t => t.commit.wbStreams
    marks 0 = some [2] ∧ marks 1 = some [] := by decide +kernel

/-- The status word of an enabled stream: slots 0, 2 and 3 FREE, slot 1 presented, item 4 current and cued, or none; and
one that presents no slot (R145). -/
theorem witness_PartOwnedBytesSubstituted_of_a_status_word :
    (List.range 4).map (fun j => ownedByte (playing 1 (some 4)) .trailers (2080 + j)) =
        [some 13, some 1, some 4, some 4] ∧
      (List.range 4).map (fun j => ownedByte streaming .trailers (2080 + j)) =
        [some 13, some 1, some 255, some 255] ∧
      (streaming.setup.streams.get 2).enabled = true ∧
      (∀ l, ((streaming.trailers.streams.get 2).slots.get l).newest = true → l = 1) ∧
      ∀ k, (Stream.empty.slots.get k).newest = false := by decide +kernel

theorem witness_TimeSetTaken (v : List Byte) :
    answeredInUse (writing running [.timeSet 1 (some v)]) 0
        { addr := 0, isWrite := true, beats := 1, holder := .inFlight }
        (forwarded (write1 0 7) [.timeSet 1 (some v)]) .ok [] ∧ running.active = true ∧
      running.commit.lastTimeSet ≠ 1 :=
  ⟨writing_answered _ _ rfl _, rfl, by decide⟩

theorem witness_TimeSetTaken_kept (v : List Byte) :
    answeredInUse (writing restarting [.timeSet 255 (some v)]) 0
        { addr := 0, isWrite := true, beats := 1, holder := .inFlight }
        (forwarded (write1 0 7) [.timeSet 255 (some v)]) .ok [] ∧ restarting.rebuilding = true ∧
      restarting.commit.lastTimeSet ≠ 255 :=
  ⟨writing_answered _ _ rfl _, rfl, by decide⟩

theorem witness_TimeSetTaken_in_part :
    answeredInUse (writing running [.timeSet 1 none]) 0
        { addr := 0, isWrite := true, beats := 1, holder := .inFlight }
        (forwarded (write1 0 7) [.timeSet 1 none]) .ok [] ∧ running.active = true ∧ running.commit.lastTimeSet ≠ 1 :=
  ⟨writing_answered _ _ rfl _, rfl, by decide⟩

/-- A write with the last-seen revision, whole or in part (R11). -/
theorem witness_TimeSetTaken_again (value : Option (List Byte)) :
    answeredInUse (writing running [.timeSet 0 value]) 0
        { addr := 0, isWrite := true, beats := 1, holder := .inFlight }
        (forwarded (write1 0 7) [.timeSet 0 value]) .ok [] ∧ running.commit.lastTimeSet = 0 :=
  ⟨writing_answered _ _ rfl _, rfl⟩

/-- The longest forward jump, and the shortest one that is backward (R71). -/
theorem witness_TimeSetTaken_jumps :
    distance running.clock.now (BitVec.ofNat 20 (u32 [255, 255, 7, 0] 0)) = 524287 ∧
      distance running.clock.now (BitVec.ofNat 20 (u32 [0, 0, 8, 0] 0)) = 524288 := by decide +kernel

theorem witness_OverlayBlended :
    let o : Overlay := { bits := [none, some true, some false], fg := .zero, bg := .zero, dim := 8 }
    (List.replicate 12 (200 : Byte)).length = 4 * o.bits.length ∧ o.bits[0]? = some none ∧
      o.bits[1]? = some (some true) ∧ o.bits[2]? = some (some false) ∧ running.part ≠ .transparent := by decide +kernel

/-- `bannered` with a banner of one cell latched at columns 0–15 and rows 0–31 of panel 0, beside a trailer latched
under it. -/
def latched : State :=
  { bannered with scan := setAt bannered.scan 0 { PanelScan.idle with
      banner := some { entries := [2], bx := 0, byRow := 0, fg := .zero, bg := .zero, dim := 0 }
      trailer := some { stream := 2, slot := 1, base := 0x90000, stride := 128, x0 := 0, y0 := 32, width := 32
                        height := 1 } } }

/-- The last row of the band and the first below it, which is the trailer's. -/
theorem witness_OverlayBlended_plans :
    (planRead latched 0 31 56 1 != .none) = true ∧ (latched.notices.cache.get 2).fill = .held 65 (List.replicate 64 9) ∧
      planRead latched 0 32 56 1 = .redirect 0x90038 ∧ planRead latched 0 33 0 1 = .none := by decide +kernel

/-- At the 25 MHz step of 17,180 the timer is 999 cycles long, and 2,000 before any load (R159). -/
theorem test_response_timer_length :
    ({ running with clock := { running.clock with step := some 17180 } } : State).timerLength = 999 ∧
      State.reset.timerLength = 2000 := by decide +kernel

theorem witness_timerLength : running.clock.step = some 8589934 ∧ State.reset.clock.step = none := by decide

theorem witness_ControllerRequestTimedOut :
    let s : State := { queued with traffic := { queued.traffic with cycles := 2 } }
    let t : State := { writing running [] with traffic := { (writing running []).traffic with cycles := 2 } }
    (s.resetN = true ∧ s.traffic.inflight.get 7 = some queuedEntry ∧ queuedEntry.stage = .queued ∧
      s.timerLength ≤ s.traffic.cycles - queuedEntry.started) ∧
      t.traffic.inflight.get 0 = some (forwarded (write1 0 7) []) ∧
      t.timerLength ≤ t.traffic.cycles - (forwarded (write1 0 7) []).started ∧
      t.traffic.tags.get (memTagOf 0) = some { addr := 0, isWrite := true, beats := 1, holder := .inFlight } := by
  decide +kernel

theorem witness_OwnRequestTimedOut :
    let u (st : OwnStatus) : TagUse := { addr := 0, isWrite := false, beats := 2, holder := .own .journalFetch 0 st }
    let s (st : OwnStatus) : State :=
      { reserved running 64 (u st) with traffic := { (reserved running 64 (u st)).traffic with cycles := 2 } }
    ∀ st ∈ [OwnStatus.live, .dropped], (s st).resetN = true ∧ (s st).traffic.tags.get 64 = some (u st) ∧
      st ≠ .timedOut ∧ (s st).timerLength ≤ (s st).traffic.cycles - 0 ∧ (s st).active = true ∧
      (s st).setup.mode = .report := by decide +kernel

/-- A live request of any purpose whose timer has expired, in every part state and containment mode. -/
theorem witness_OwnRequestTimedOut_in_every_part (p : OwnPurpose) (part : PartState) (mode : ContainMode) :
    let s : State := { later (reserved running 64 (ownRead p 2)) with
      part := part, setup := { running.setup with mode := mode } }
    s.resetN = true ∧ s.traffic.tags.get 64 = some (ownRead p 2) ∧ (ownRead p 2).holder = .own p 0 .live ∧
      s.timerLength ≤ s.traffic.cycles - 0 ∧ s.part = part ∧ s.setup.mode = mode :=
  ⟨rfl, get_setAt_self _ _ _, rfl, (by decide +kernel : (2 : Nat) ≤ 2000), rfl, rfl⟩

/-- The hypotheses on the requester's own state. -/
theorem witness_OwnRequestTimedOut_of_each_requester :
    (painting paint).painter.slots = [paint] ∧ paint.fault = none ∧
      ((glyphWanted.notices.cache.get 2).fill = .filling 66 ∧ 0 < (glyphWanted.notices.cache.get 2).refs) ∧
      (fetching (.title 63) .fetching).commit.fetches.find? (fun x => x.record == .title 63) =
        some { record := .title 63, issued := 1, taken := [] } := by decide +kernel

theorem witness_SecondTaken :
    let s (p : PartState) : State := { running with clock := { running.clock with secondsDue := 1 }, part := p }
    ∀ p ∈ [PartState.running, .quiet, .transparent, .building, .restarting],
      (s p).resetN = true ∧ 0 < (s p).clock.secondsDue ∧
        ((s p).active = true ∨ (s p).part = .transparent ∨ (s p).rebuilding = true) := by decide +kernel

/-- The second that completes a minute, with a CLOCK line and another. -/
theorem witness_SecondTaken_at_a_rollover :
    minuteDue.resetN = true ∧ 0 < minuteDue.clock.secondsDue ∧ minuteDue.active = true ∧
      (minuteDue.clock.now + 1).toNat % 60 = 0 ∧ (minuteDue.line 0 0).kind = .clock ∧
      (minuteDue.line 0 1).kind ≠ .clock := by decide +kernel

theorem witness_DistanceAndPassing : 1 ≤ distance 0 1 ∧ distance 0 524289 = 524289 := by decide

theorem witness_PhaseFiredAndHoldExpired :
    lastCallDue.resetN = true ∧ lastCallDue.active = true ∧
      lastCallDue.due.batch = { key := .phase 5, target := some .lastCall, time := 8400 } :: [] ∧
      (phaseChain lastCallDue.setup 8400 9000 .lastCall).1 = .lastCall ∧
      (phaseChain lastCallDue.setup 9900 9000 .closed).1 = .closed := by decide +kernel

/-- A chain that ends in CLOSED takes the showing's hold, with its due entry, and not another's. -/
theorem witness_PhaseFiredAndHoldExpired_closes :
    let s : State := { lastCallDue with
      due := { list := [{ key := .hold 9, target := none, time := 9000 }, { key := .hold 8, target := none, time := 9000 }]
               batch := [{ key := .phase 5, target := some .closed, time := 8400 }] } }
    s.due.batch = { key := .phase 5, target := some .closed, time := 8400 } :: [] ∧ s.active = true ∧
      holdNames (s.holds.get 9) 5 = true ∧ holdNames (s.holds.get 8) 5 = false ∧
      (phaseChain s.setup s.clock.now (s.seats.entries.get 5).start .closed).1 = .closed := by decide +kernel

/-- The entry times of a start at 9000 with lead 600 and grace 900: 8400, 9000 and 9900, and the second before each. -/
theorem witness_PhaseFiredAndHoldExpired_entry_times :
    ([8399, 8400, 8999, 9000, 9899, 9900].map fun now : LobbyTime =>
      (passed now (9000 - BitVec.ofNat 20 lastCallDue.setup.lead), passed now 9000,
        passed now (9000 + BitVec.ofNat 20 lastCallDue.setup.grace))) =
      [(false, false, false), (true, false, false), (true, false, false), (true, true, false), (true, true, false),
        (true, true, true)] := by decide +kernel

theorem witness_PhaseFiredAndHoldExpired_of_a_hold :
    holdDue.resetN = true ∧ holdDue.active = true ∧
      holdDue.due.batch = { key := .hold 9, target := none, time := 0 } :: [] ∧
      holdDue.holds.get 9 = some { showing := 5, desk := 1, token := 7, seats := 2 } ∧
      (holdDue.seats.entries.get 5).sold + (holdDue.seats.entries.get 5).held ≤
        (holdDue.seats.entries.get 5).capacity ∧
      (holdDue.seats.entries.get 5).left = (holdDue.seats.entries.get 5).capacity -
        (holdDue.seats.entries.get 5).sold - (holdDue.seats.entries.get 5).held ∧
      2 ≤ (holdDue.seats.entries.get 5).held := by decide +kernel

theorem witness_NoticePostedAndEnded :
    noticeDue.resetN = true ∧ noticeDue.active = true ∧
      noticeDue.due.batch = { key := .notice 4, target := none, time := 0 } :: [] ∧
      (noticeDue.notices.entries.get 4).state = .lineActive := by decide +kernel

/-- A notice record: kind, priority, length, intent, first mask byte, lifetime. -/
def noticeBytes (kind priority length intent mask lifetime : Byte) : List Byte :=
  List.replicate 48 65 ++ [kind, priority, length, intent, mask, 0, 0, 0, lifetime, 0] ++ List.replicate 6 0

/-- The refusals of R110 in their order, and the records at the ends of what is accepted. -/
theorem witness_NoticePostedAndEnded_records :
    ([noticeBytes 1 0 1 0 1 0, noticeBytes 1 0 1 3 1 0, noticeBytes 0 8 0 1 0 0, noticeBytes 3 0 1 1 1 0,
        noticeBytes 1 8 0 1 0 0, noticeBytes 2 0 49 1 1 0, noticeBytes 1 8 48 1 0 0, noticeBytes 2 7 1 1 0 0].map
      fun bs => noticeRefusal (noticeRec bs)) =
        [some [1, 0], some [1, 3], some [2, 0], some [2, 3], some [3, 0], some [3, 49], some [4, 8],
          some [5, 0, 0, 0]] ∧
      ([noticeBytes 1 7 48 1 128 0, noticeBytes 2 0 1 1 1 255, noticeBytes 0 0 0 2 0 0].map
        fun bs => noticeRefusal (noticeRec bs)) = [none, none, none] ∧
      (noticeRec (noticeBytes 0 0 0 2 0 0)).intent = 2 ∧ (bannered.notices.entries.get 4).state ≠ .idle ∧
      (bannered.notices.entries.get 5).state = .idle := by decide +kernel

/-- A wait list that holds a waiting banner, and a line notice that stands for panels 0 and 23. -/
theorem witness_NoticePostedAndEnded_lines :
    let s : State := { running with notices := { running.notices with
      entries := setAt (setAt running.notices.entries 3 { banner .bannerWaiting 1 2 7 with entries := [] }) 4
        { banner .lineActive 0x800001 2 8 with entries := [] }
      waitList := [3] } }
    (∀ k ∈ s.notices.waitList, (s.notices.entries.get k).state = .bannerWaiting) ∧
      (s.notices.entries.get 4).state = .lineActive ∧ (s.notices.entries.get 4).fields.mask.getLsbD 0 = true ∧
      (s.notices.entries.get 4).fields.mask.getLsbD 23 = true ∧
      (s.notices.entries.get 4).fields.mask.getLsbD 22 = false := by decide +kernel

/-- Of two line notices of one priority the newer ranks first, and one of a higher priority before both (R114). -/
theorem witness_NoticePostedAndEnded_ranks :
    let line (n : NoticeIx) (priority : Nat) (seq : BitVec 32) (v : Vector Notice 32) :=
      setAt v n { banner .lineActive 1 priority seq with entries := [] }
    lineRanking { running.notices with
        entries := line 1 2 7 (line 2 2 8 (line 3 6 1 running.notices.entries)) } 0 = [3, 2, 1] := by decide +kernel

theorem witness_GapAndIdleTimersExpired :
    gapAt63.resetN = true ∧ gapAt63.active = true ∧ gapAt63.journal.gapStart = some 5 ∧
      gapAt63.setup.gap ≤ (gapAt63.clock.ticks - 5).toNat := by decide +kernel

/-- `idling` with a trailer latch on the newest slot. -/
def idlingLatched : State :=
  { streaming with
    scan := setAt streaming.scan 3 { PanelScan.idle with
      scanning := true, idleStart := some 65530
      trailer := some { stream := 2, slot := 1, base := 0x90000, stride := 128, x0 := 0, y0 := 0, width := 32,
                        height := 1 } }
    clock := { streaming.clock with ticks := 4 } }

theorem witness_GapAndIdleTimersExpired_of_a_pass :
    idling.resetN = true ∧ idling.active = true ∧ (idling.scan.get 3).idleStart = some 65530 ∧
      10 ≤ (idling.clock.ticks - 65530).toNat ∧ (idling.scan.get 3).banner = none ∧
      (idling.scan.get 3).trailer = none ∧ (idlingLatched.scan.get 3).idleStart = some 65530 ∧
      (idlingLatched.scan.get 3).trailer.isSome = true := by decide +kernel

/-- A HELD entry of one reference and one of two; a slot of one latch that is newest, and one that is not. -/
theorem witness_GapAndIdleTimersExpired_counts :
    (latched.scan.get 0).banner.isSome = true ∧ (latched.notices.cache.get 2).fill.isHeld = true ∧
      1 < (latched.notices.cache.get 2).refs ∧
      ({ latched.notices.cache.get 2 with refs := 1 } : CacheEntry).refs ≤ 1 ∧
      ((streaming.trailers.streams.get 2).slots.get 1).newest = true ∧
      ({ (streaming.trailers.streams.get 2).slots.get 1 with newest := false } : FrameSlot).state = .complete ∧
      ((streaming.trailers.streams.get 2).slots.get 1).latches ≤ 1 := by decide +kernel

/-- The tail fetch of `fetchingTail` is live. -/
theorem fetchingTail_live (s : State) (h : s.resetN = true) :
    liveOwn (fetchingTail s) 64 (ownRead .journalFetch 2) .journalFetch :=
  ⟨h, get_setAt_self _ _ _, 0, rfl⟩

/-- The tail fetch of a state is answered OK with 16 bytes. -/
theorem tailTaken_of (s : State) (bs : List Byte) (h : s.resetN = true) (a : s.active = true) (n : bs.length = 16) :
    tailTaken (fetchingTail s) 64 (ownRead .journalFetch 2) bs :=
  ⟨fetchingTail_live s h, rfl, n, a, rfl⟩

/-- `selling` with showing 5 in a phase. -/
def sellingIn (p : Phase) : State :=
  { selling with seats := { selling.seats with entries := setAt selling.seats.entries 5 { onSale with phase := p } } }

theorem witness_JournalSaleAndRefund :
    tailTaken (fetchingTail selling) 64 (ownRead .journalFetch 2) (journalBytes 5 1 1 0) ∧
      (∀ bs ∈ [journalBytes 5 1 1 0, journalBytes 5 1 4 0, journalBytes 5 1 16 7, journalBytes 5 2 1 0,
          journalBytes 5 2 16 7],
        bs.length = 16 ∧ recordInRange (journalRec bs) ∧
        (((journalRec bs).action = 1 ∧
            passesGate ((fetchingTail selling).seats.entries.get (journalRec bs).showing).phase = true) ∨
          ((journalRec bs).action = 2 ∧
            ((fetchingTail selling).seats.entries.get (journalRec bs).showing).phase ≠ .vacant))) ∧
      ∀ p ∈ [Phase.closed, .cancelled], ∀ bs ∈ [journalBytes 5 1 1 0, journalBytes 5 3 16 7],
        recordInRange (journalRec bs) ∧ ((journalRec bs).action = 1 ∨ (journalRec bs).action = 3) ∧
          ((fetchingTail (sellingIn p)).seats.entries.get (journalRec bs).showing).phase = p := by
  refine ⟨tailTaken_of _ _ rfl rfl rfl, ?_⟩
  unfold recordInRange
  decide +kernel

theorem witness_JournalHoldMade :
    ∀ bs ∈ [journalBytes 5 3 1 0, journalBytes 5 3 4 0, journalBytes 5 3 16 7],
        bs.length = 16 ∧ recordInRange (journalRec bs) ∧ (journalRec bs).action = 3 ∧
        passesGate ((fetchingTail selling).seats.entries.get (journalRec bs).showing).phase = true ∧
        freeHold (fetchingTail selling) = some 0 ∧
        findHold (fetchingTail selling) (deskOf (journalRec bs)) (journalRec bs).token = none ∧
        1 ≤ ((fetchingTail selling).seats.entries.get (journalRec bs).showing).left := by
  unfold recordInRange
  decide +kernel

/-- A full table, a hold of the record's desk and token, and a showing with no seat left. -/
theorem witness_JournalHoldMade_refused :
    let full : State := { selling with
      holds := Vector.replicate 64 (some { showing := 5, desk := 0, token := 1, seats := 1 }) }
    let soldOut : State := { selling with seats := { selling.seats with
      entries := setAt selling.seats.entries 5 { onSale with left := 0, sold := 8 } } }
    (∀ h, full.holds.get h ≠ none) ∧
      (selling.holds.get 0 = none ∧ selling.holds.get 9 = some { showing := 5, desk := 1, token := 7, seats := 2 } ∧
        (journalRec (journalBytes 5 3 1 1)).desk = 1 ∧ (journalRec (journalBytes 5 3 1 1)).token = 7) ∧
      ((soldOut.seats.entries.get 5).left = 0 ∧ passesGate (soldOut.seats.entries.get 5).phase = true ∧
        ∀ h x, soldOut.holds.get h = some x → ¬(x.desk.val = 0 ∧ x.token = 7)) := by
  refine ⟨by decide +kernel, by decide +kernel, by decide +kernel, by decide +kernel, ?_⟩
  have h : ∀ h : HoldIx, (match selling.holds.get h with | some x => x.desk.val != 0 | none => true) = true := by
    decide +kernel
  intro i x k
  have := h i
  simp only [show selling.holds.get i = some x from k] at this
  simp only [bne_iff_ne] at this
  exact fun c => this c.1

theorem witness_JournalHoldEnded :
    (∀ bs ∈ [journalBytes 5 4 1 1, journalBytes 5 5 16 1],
        bs.length = 16 ∧ recordInRange (journalRec bs) ∧ ((journalRec bs).action = 4 ∨ (journalRec bs).action = 5) ∧
        ((fetchingTail selling).seats.entries.get (journalRec bs).showing).phase ≠ .vacant ∧
        findHold (fetchingTail selling) (deskOf (journalRec bs)) (journalRec bs).token =
          some (9, { showing := 5, desk := 1, token := 7, seats := 2 }) ∧ (journalRec bs).showing = 5) ∧
      (∀ bs ∈ [journalBytes 5 4 1 0, journalBytes 5 5 16 7], recordInRange (journalRec bs) ∧
        findHold (fetchingTail selling) (deskOf (journalRec bs)) (journalRec bs).token = none) ∧
      (passesGate (selling.seats.entries.get 5).phase = true ∧ (selling.seats.entries.get 5).left = 4) ∧
      (passesGate ((sellingIn .closed).seats.entries.get 5).phase = false ∧
        ((sellingIn .closed).seats.entries.get 5).phase ≠ .vacant) := by
  unfold recordInRange
  decide +kernel

theorem witness_JournalBadSkipped :
    ∀ x ∈ [(journalBytes 5 0 0 8, 1), (journalBytes 5 6 1 0, 1), (journalBytes 5 1 0 8, 2), (journalBytes 5 5 17 0, 2),
          (journalBytes 5 1 16 8, 3), (journalBytes 6 1 1 7, 4)],
        x.1.length = 16 ∧
        ((((journalRec x.1).action = 0 ∨ 5 < (journalRec x.1).action) ∧ x.2 = 1) ∨
          ((1 ≤ (journalRec x.1).action ∧ (journalRec x.1).action ≤ 5) ∧
            ((((journalRec x.1).seats = 0 ∨ 16 < (journalRec x.1).seats) ∧ x.2 = 2) ∨
              ((1 ≤ (journalRec x.1).seats ∧ (journalRec x.1).seats ≤ 16) ∧
                ((7 < (journalRec x.1).desk ∧ x.2 = 3) ∨
                  ((journalRec x.1).desk ≤ 7 ∧
                    ((fetchingTail selling).seats.entries.get (journalRec x.1).showing).phase = .vacant ∧
                    x.2 = 4)))))) := by decide +kernel

/-- The tail fetch of a state in a containment mode and in RUNNING or QUIET, with the tail slot's mark set and the fetch
state as given, ended in each way. -/
theorem witness_JournalBadSkipped_fetch_over (f : JournalFetch) (mode : ContainMode) (part : PartState)
    (h : part = .running ∨ part = .quiet) :
    let s : State := later { fetchingTail selling with
      part := part
      journal := { selling.journal with fetch := f, marks := setAt selling.journal.marks 0 true }
      setup := { selling.setup with mode := mode } }
    endsEachWay s .journalFetch 2 (fun st data => .journalFetchComplete 64 st data) ∧ s.active = true ∧
      s.journal.fetch = f ∧ s.setup.mode = mode ∧ s.part = part ∧ s.journal.marks.get s.journal.tail = true :=
  ⟨later_ends _ _ _ _ rfl (get_setAt_self _ _ _) (by decide +kernel : (2 : Nat) ≤ 2000),
    by rcases h with rfl | rfl <;> rfl, rfl, rfl, rfl, get_setAt_self _ _ _⟩

/-- The fetch of `fetching` is live. -/
theorem fetching_live (r : RecordId) (f : FetchState) :
    liveOwn (fetching r f) 64 (ownRead (.commitFetch r 0) (fetchShape r).2) (.commitFetch r 0) :=
  ⟨rfl, get_setAt_self _ _ _, 0, rfl⟩

/-- The fetch state that `fetching` gives its record. -/
theorem fetching_state (f : FetchState) : (fetching (.notice 31) f).commit.fetch.get (.notice 31) = f := by
  cases f <;> decide +kernel

/-- The last burst of a fetch of one burst, in RUNNING and QUIET and each containment mode, ended in each way. -/
theorem witness_RecordFetchEnded (f : FetchState) (mode : ContainMode) (part : PartState)
    (h : part = .running ∨ part = .quiet) :
    let s : State := later { fetching (.notice 31) f with part := part, setup := { running.setup with mode := mode } }
    endsEachWay s (.commitFetch (.notice 31) 0) 8 (fun st data => .commitFetchComplete 64 st data) ∧
      s.active = true ∧ s.setup.mode = mode ∧ s.part = part ∧ (fetchShape (.notice 31)).1 = 1 ∧
      s.commit.fetches.find? (fun x => x.record == .notice 31) =
        some { record := .notice 31, issued := 1, taken := [] } ∧
      s.commit.fetch.get (.notice 31) = f :=
  ⟨later_ends _ _ _ _ rfl (get_setAt_self _ _ _) (by decide +kernel : (2 : Nat) ≤ 2000),
    by rcases h with rfl | rfl <;> rfl, rfl, rfl, rfl, rfl, fetching_state f⟩

/-- A roster line that names a showing of title 3, and one that names none (R81). -/
theorem witness_RecordFetchEnded_of_a_title :
    let s := assignRoster boarded 0
    (s.line 0 1).kind.isRoster = true ∧ lineAt s.roster.assign 0 1 = some 5 ∧ (s.seats.entries.get 5).title = 3 ∧
      (s.line 0 2).kind.isRoster = true ∧ lineAt s.roster.assign 0 2 = none := by decide +kernel

/-- Four results of a layout's fetch, answered out of order. -/
def layoutTaken (x : Nat → ReadResult) : List (Nat × ReadResult) := [(3, x 3), (0, x 0), (2, x 2), (1, x 1)]

/-- The bursts of a layout: with the third result taken the fetch goes on, the fourth ends it, the data is in burst
order, and the first FAULT taken is the one that R13 reports. -/
theorem witness_RecordFetchEnded_of_a_layout (d : Nat → List Byte) :
    ((layoutTaken fun j => .ok (d j)).take 3).length < (fetchShape (.layout 23)).1 ∧
      (fetchShape (.layout 23)).1 ≤ (layoutTaken fun j => .ok (d j)).length ∧
      (∀ j, j < 4 → resultOf (layoutTaken fun j => .ok (d j)) j = some (.ok (d j))) ∧
      (layoutTaken fun j => if j = 2 ∨ j = 1 then ReadResult.fault else ReadResult.ok []).find?
        (fun x => x.2 == ReadResult.fault) = some (2, ReadResult.fault) := by
  refine ⟨by simp [layoutTaken, fetchShape], by simp [layoutTaken, fetchShape], ?_, by decide⟩
  intro j h
  match j, h with
  | 0, _ => rfl
  | 1, _ => rfl
  | 2, _ => rfl
  | 3, _ => rfl

/-- A showing record: title, hall, intent, start 9000, capacity below 256. -/
def showingBytes (title hall intent capacity : Byte) : List Byte :=
  [title, hall, intent, 0, 0x28, 0x23, 0, 0, capacity, 0] ++ List.replicate 54 0

/-- What a showing record holds, by the offsets of R184: title, hall, intent, start, capacity. -/
def showingFields (bs : List Byte) : List Nat := [u8 bs 0, u8 bs 1, u8 bs 2, u32 bs 4, u16 bs 8]

/-- Records in range at the ends of the ranges: OPEN at the sold and held of showing 5, CANCELLED at its sold, and
VACANT, of which no other field is read. -/
theorem witness_ShowingHandedOver :
    let e := selling.seats.entries.get 5
    showingFields (showingBytes 63 31 1 6) = [63, 31, 1, 9000, 6] ∧
      (e.phase ≠ .closed ∧ e.phase ≠ .cancelled ∧ e.sold + e.held = 6) ∧
      showingFields (showingBytes 0 0 2 4) = [0, 0, 2, 9000, 4] ∧ e.sold = 4 ∧
      showingFields (showingBytes 255 255 0 0) = [255, 255, 0, 9000, 0] ∧ holdNames (selling.holds.get 9) 5 = true := by
  decide +kernel

/-- RUNNING with showing 5 in a phase. -/
def inPhase (p : Phase) : State :=
  { running with seats := { running.seats with entries := setAt running.seats.entries 5 { onSale with phase := p } } }

/-- Each field one past its range (intent 3, title 64, hall 32, start 1,048,576, capacity 0 and 1000), and records in
range that the other cases refuse: a capacity of 5 against sold and held of 6, and of 3 against sold of 4. -/
theorem witness_ShowingHandedOver_refused :
    ([showingBytes 0 0 3 1, showingBytes 64 0 1 1, showingBytes 0 32 2 1,
        [0, 0, 1, 0, 0, 0, 16, 0, 1, 0], showingBytes 0 0 1 0, [0, 0, 2, 0, 0, 0, 0, 0, 232, 3]].map showingFields =
      [[0, 0, 3, 9000, 1], [64, 0, 1, 9000, 1], [0, 32, 2, 9000, 1], [0, 0, 1, 1048576, 1], [0, 0, 1, 9000, 0],
        [0, 0, 2, 0, 1000]]) ∧
      showingFields (showingBytes 63 31 1 5) = [63, 31, 1, 9000, 5] ∧
      showingFields (showingBytes 0 0 2 3) = [0, 0, 2, 9000, 3] ∧
      (∀ p ∈ [Phase.closed, .cancelled, .onSale], ((inPhase p).seats.entries.get 5).phase = p ∧
        ((inPhase p).seats.entries.get 5).sold = 4 ∧ ((inPhase p).seats.entries.get 5).held = 2) := by decide +kernel

theorem witness_CatalogAndRotationHandedOver :
    liveOwn (fetching (.catalog 47) .fetching) 64 (ownRead (.commitFetch (.catalog 47) 0) 2)
        (.commitFetch (.catalog 47) 0) ∧
      (fetching (.catalog 47) .fetching).active = true ∧
      (fetching (.catalog 47) .fetching).commit.fetches.find? (fun x => x.record == .catalog 47) =
        some { record := .catalog 47, issued := 1, taken := [] } ∧
      (fetching (.catalog 47) .fetching).commit.fetch.get (.catalog 47) = .fetching ∧
      (∀ d ∈ [[1, 63, 255, 63], [0, 255, 1, 0]].map (fun x : List Byte => x ++ List.replicate 12 0),
        d.length = 8 * 2 ∧ catalogRefusal (catalogRec d) = none) ∧
      ([[2, 64, 0, 0], [1, 64, 0, 0], [1, 254, 1, 0], [1, 63, 0, 0], [1, 255, 0, 64]].map
        fun x : List Byte => catalogRefusal (catalogRec (x ++ List.replicate 12 0))) =
          [some [1, 2], some [2, 64], some [2, 254], some [3, 0, 0], some [3, 0, 64]] :=
  ⟨fetching_live _ _, by decide +kernel⟩

/-- The bytes of a layout record: two line descriptors, then a banner spec of a state, dim shift and row. -/
def layoutBytes (a b : List Byte) (enabled dim y : Byte) : List Byte :=
  List.replicate 128 0 ++ a ++ List.replicate (16 - a.length) 0 ++ b ++ List.replicate (240 - b.length) 0 ++
    [enabled, dim, 0, 0, y, 0] ++ List.replicate 122 0

/-- `screened` with panel 0 of 128 × 64 pixels, and stream 0 of 32 × 1. -/
def wide : State :=
  { screened with
    setup := { screened.setup with
      panels := setAt screened.setup.panels 0
        { enabled := true, width := 128, height := 64, base := 0x80000, stride := 512 }
      streams := setAt screened.setup.streams 0
        { enabled := true, width := 32, height := 1, stride := 128, slots := Vector.replicate 4 0x90000 } } }

/-- F, Q and H at the ends of their clamps, and above and below them (R76). -/
theorem test_layout_clamps :
    ([(99, 100, 99), (255, 101, 255), (0, 0, 5)].map fun x : Byte × Byte × Byte =>
      let y := (layoutOf (List.replicate 406 0 ++ [x.1, x.2.1, x.2.2])).filter
      (y.f, y.q, y.h)) = [(99, 100, 99), (99, 100, 99), (0, 1, 0)] := by decide +kernel

/-- The kinds of a line: the last of R185, and the first number that is none. -/
theorem witness_LayoutHandedOver_kinds :
    [LineKind.unused, .rosterWide, .rosterNarrow, .notice, .clock, .trailer][u8 [5] 0]? = some .trailer ∧
      [LineKind.unused, .rosterWide, .rosterNarrow, .notice, .clock, .trailer][u8 [6] 0]? = none := by decide +kernel

/-- The cases of R78 in their order, the first and the last of them in one line: an unknown kind, a dim shift of 9, two
TRAILER lines, a disabled stream, a line and a banner beyond the frame, overlapping lines, NOTICE lines of one rank, and
a band over the trailer region. -/
theorem witness_LayoutHandedOver :
    (running.setup.panels.get 0).enabled = false ∧ layoutRefusal running 0 (List.replicate 512 0) = some (1, none) ∧
      ([layoutBytes [6] [] 1 9 64, layoutBytes [] [] 1 9 64, layoutBytes [5] [5] 1 8 64,
          layoutBytes [] [5, 0, 0, 0, 0, 0, 0, 0, 0, 0, 0, 1] 1 8 64, layoutBytes [] [4, 0, 0, 0, 33] 1 8 64,
          layoutBytes [] [] 1 8 33, layoutBytes [4] [4, 0, 48, 0, 31] 0 9 0,
          layoutBytes [3, 1, 0, 0, 0, 0, 1] [3, 1, 0, 0, 32, 0, 1] 0 0 0, layoutBytes [5] [] 1 8 0,
          layoutBytes [4] [3, 15, 16, 0, 32, 0, 7] 1 8 32].map fun bs => layoutRefusal wide 0 bs) =
        [some (2, some 0), some (2, some 255), some (3, some 1), some (4, some 1), some (5, some 1),
          some (5, some 255), some (6, some 1), some (7, some 1), some (8, some 255), none] := by decide +kernel

theorem witness_WriteBackCompleted :
    liveOwn (reserved running 64 (ownWrite (.writeBack .journal))) 64 (ownWrite (.writeBack .journal))
      (.writeBack .journal) ∧ (ownWrite (.writeBack .journal)).isWrite = true ∧ running.active = true ∧
      running.setup.mode = .report :=
  ⟨⟨rfl, get_setAt_self _ _ _, 0, rfl⟩, rfl, rfl, rfl⟩

/-- The part in RUNNING or QUIET under a containment mode, with an own request of a purpose live. -/
theorem witness_containment (part : PartState) (mode : ContainMode) (p : OwnPurpose) (h : part = .running ∨ part = .quiet) :
    let s : State := { reserved running 64 (ownWrite p) with part := part, setup := { running.setup with mode := mode } }
    liveOwn s 64 (ownWrite p) p ∧ s.active = true ∧ s.part = part ∧ s.setup.mode = mode :=
  ⟨⟨rfl, get_setAt_self _ _ _, 0, rfl⟩, by rcases h with rfl | rfl <;> rfl, rfl, rfl⟩

theorem witness_CellTaken :
    cellQueued.resetN = true ∧ cellQueued.part = .running ∧ cellQueued.painter.slots.length < 2 ∧
      cellQueued.painter.queue = { panel := 0, line := 0, cell := 1 } :: [] ∧
      stale cellQueued { panel := 0, line := 0, cell := 1 } = true ∧
      stale (setMarks cellQueued { panel := 0, line := 0, cell := 1 } { CellMarks.clear with painted := some .space0 })
        { panel := 0, line := 0, cell := 1 } = false ∧
      128 < (List.replicate 129 ({ panel := 0, line := 0, cell := 1 } : CellRef)).length := by decide +kernel

/-- `boarded` with the same layout on panel 1, the first cell of panel 0's CLOCK line and `n` others queued, and lines of
the two panels marked; of the CLOCK line's cells, cell 2 is painting and cell 3 faulted. -/
def lined (n : Nat) (marked : List (PanelIx × LineIx)) : State :=
  let r : CellRef := { panel := 0, line := 0, cell := 0 }
  { boarded with
    roster := { boarded.roster with
      layouts := setAt boarded.roster.layouts 1 (boarded.roster.layouts.get 0) }
    painter := { boarded.painter with
      queue := r :: List.replicate n r
      redraw := marked.foldl (fun m a => setLine m a.1 a.2 true) boarded.painter.redraw
      marks := setCell (setCell boarded.painter.marks { r with cell := 2 } { CellMarks.clear with painting := true })
        { r with cell := 3 } { CellMarks.clear with faulted := true } } }

/-- With the CLOCK lines of both panels and panel 0's narrow line marked, the walk after the take queues cells 1 and 4 of
panel 0's CLOCK line, the 16 cells of its narrow line, and then panel 1's CLOCK line, and clears their marks (R99). -/
theorem test_cell_take_walks_in_order :
    got (exec .cellTake (lined 0 [(1, 0), (0, 1), (0, 0)])) (fun t =>
        (t.painter.queue.map (fun x => (x.panel.val, x.line.val, x.cell.val)),
          lineAt t.painter.redraw 1 0, lineAt t.painter.redraw 0 0)) =
      some ([(0, 0, 1), (0, 0, 4)] ++ (List.range 16).map (fun k => (0, 1, k)) ++
        (List.range 5).map (fun k => (1, 0, k)), false, false) := by decide +kernel

/-- 128 and 129 cells left once the first is taken, which is stale in one state and not in the other; a cell that waits,
and one of each kind that does not. -/
theorem witness_CellTaken_walk :
    let s := lined 128 [(0, 0), (0, 1)]
    let r : CellRef := { panel := 0, line := 0, cell := 0 }
    let waits := fun (x : CellRef) => x != r && isCell s x && stale s x && lineAt s.painter.redraw x.panel x.line &&
      !(cellMarks s x).queued && !(cellMarks s x).painting && !(cellMarks s x).faulted
    s.resetN = true ∧ s.part = .running ∧ s.painter.slots = [] ∧ s.painter.queue = r :: List.replicate 128 r ∧
      (lined 129 []).painter.queue = r :: List.replicate 129 r ∧
      stale s r = true ∧ stale (setMarks s r { CellMarks.clear with painted := some .space0 }) r = false ∧
      ([1, 2, 3, 4, 5].map fun c => waits { r with cell := c }) = [true, false, false, true, false] ∧
      waits { r with line := 2 } = false := by decide +kernel

/-- The walk fills the queue: the 16, 48 and 48 cells of panel 0's narrow, wide and NOTICE lines and the 16 of panel 1's
narrow line join the 128 that are left. The mark of the line whose last cell takes the last room clears, and that of the
next line, whose cells are left out, stands (R99). -/
theorem witness_CellTaken_full :
    got (exec .cellTake (lined 128 [(0, 1), (0, 2), (0, 3), (1, 1), (1, 2)])) (fun t =>
        (t.painter.queue.length, t.painter.queue.getLast?.map (fun x => (x.panel.val, x.line.val, x.cell.val)),
          lineAt t.painter.redraw 1 1, lineAt t.painter.redraw 1 2)) =
      some (256, some (1, 1, 15), false, true) := by decide +kernel

theorem witness_PaintAnswered :
    let second : Paint := { paint with slot := 1, fault := some (.row 3) }
    let s : State := { running with painter := { running.painter with slots := [paint, second] } }
    s.active = true ∧ paint ∈ s.painter.slots ∧ second ∈ s.painter.slots ∧ paint.slot = 0 ∧ second.slot = 1 ∧
      (s.painter.slots.map fun q => q.slot).Nodup ∧ paint.fault = none ∧
      liveOwn (reserved s 64 (ownRead (.glyphRead 0) 8)) 64 (ownRead (.glyphRead 0) 8) (.glyphRead 0) ∧
      (List.replicate 64 (0 : Byte)).length = 8 * 8 ∧
      liveOwn (reserved s 64 (ownWrite (.rowWrite 1 31))) 64 (ownWrite (.rowWrite 1 31)) (.rowWrite 1 31) :=
  ⟨rfl, by simp, by simp, rfl, rfl, by decide, rfl, ⟨rfl, get_setAt_self _ _ _, 0, rfl⟩, by decide, rfl,
    get_setAt_self _ _ _, 0, rfl⟩

/-- A paint without a fault and with one, its modes and part states: REPORT, QUIET in QUIET, and QUIET in RUNNING. -/
theorem witness_PaintAnswered_fault (mode : ContainMode) (part : PartState) (h : part = .running ∨ part = .quiet)
    (f : Option PaintFault) :
    let p : Paint := { paint with fault := f }
    let s : State := { running with
      part := part, setup := { running.setup with mode := mode }, painter := { running.painter with slots := [p] } }
    s.active = true ∧ s.painter.slots = [p] ∧ p.slot = 0 ∧ p.fault = f ∧ s.setup.mode = mode ∧ s.part = part ∧
      liveOwn (reserved s 64 (ownRead (.glyphRead 0) 8)) 64 (ownRead (.glyphRead 0) 8) (.glyphRead 0) ∧
      liveOwn (reserved s 64 (ownWrite (.rowWrite 0 31))) 64 (ownWrite (.rowWrite 0 31)) (.rowWrite 0 31) :=
  ⟨by rcases h with rfl | rfl <;> rfl, rfl, rfl, rfl, rfl, rfl, ⟨rfl, get_setAt_self _ _ _, 0, rfl⟩, rfl,
    get_setAt_self _ _ _, 0, rfl⟩

theorem witness_PaintCompleted :
    let p : Paint := { paint with stage := .ended }
    (painting p).resetN = true ∧ (painting p).active = true ∧ (painting p).painter.slots = p :: [] ∧
      p.stage = .ended ∧ p.void = false ∧ p.fault = none ∧ p.interrupted = false ∧
      (cellMarks (painting p) p.ref).spoiled = false ∧
      ({ p with fault := some (.row 31) } : Paint).fault = some (.row 31) := by decide +kernel

/-- A completed cell is offered, with 255 cells queued and with 256: it joins the queue, or its line is marked. One that
is queued already is not offered. -/
theorem witness_PaintCompleted_offered :
    let p : Paint := { paint with
      stage := .ended, void := true, ref := { panel := 0, line := 0, cell := 4 }, fault := some .glyph }
    let x : CellRef := { panel := 0, line := 1, cell := 0 }
    let s (n : Nat) : State := { boarded with painter := { boarded.painter with
      slots := [p], queue := List.replicate n x } }
    let queued : State := setMarks (s 1) p.ref { CellMarks.clear with queued := true }
    (isCell (s 255) p.ref = true ∧ (cellMarks (s 255) p.ref).queued = false ∧
        (cellMarks (s 255) p.ref).faulted = false ∧ x ≠ p.ref) ∧
      ([s 255, s 256, queued].map fun s => got (exec .paintComplete s) fun t =>
          (stale t p.ref, (cellMarks t p.ref).queued, t.painter.queue.length, lineAt t.painter.redraw 0 0)) =
        [some (true, true, 256, false), some (true, false, 256, true), some (true, true, 1, false)] := by
  decide +kernel

/-- `glyphWanted` with its fetch issued, and `n` references on the entry. -/
def glyphAwaited (n : Nat) : State :=
  reserved { glyphWanted with notices := { glyphWanted.notices with
      cache := setAt glyphWanted.notices.cache 2 { fill := .filling 66, refs := n }, fetchList := [] } } 64
    (ownRead (.glyphFetch 2) 8)

/-- The fetch of an entry with any number of references, in RUNNING and QUIET and each containment mode, ended in each
way. -/
theorem witness_GlyphFetchAndAdmission (n : Nat) (mode : ContainMode) (part : PartState)
    (h : part = .running ∨ part = .quiet) :
    let s : State := later { glyphAwaited n with part := part, setup := { running.setup with mode := mode } }
    endsEachWay s (.glyphFetch 2) 8 (fun st data => .glyphFetchComplete 64 st data) ∧ s.active = true ∧
      s.setup.mode = mode ∧ s.part = part ∧ (s.notices.cache.get 2).fill = .filling 66 ∧
      (s.notices.cache.get 2).refs = n :=
  ⟨later_ends _ _ _ _ rfl (get_setAt_self _ _ _) (by decide +kernel : (2 : Nat) ≤ 2000),
    by rcases h with rfl | rfl <;> rfl, rfl, rfl, congrArg CacheEntry.fill (get_setAt_self _ _ _),
    congrArg CacheEntry.refs (get_setAt_self _ _ _)⟩

/-- A cache whose entries are all FILLING but for the last `k`, with a banner of code 65 waiting in entry 3 and one IDLE
in entry 4. -/
def crowded (k : Nat) : State :=
  { running with notices := { running.notices with
      entries := setAt (setAt running.notices.entries 3 { banner .bannerWaiting 1 2 7 with entries := [] }) 4
        { banner .idle 1 2 8 with entries := [] }
      cache := tab fun e => if e.val + k < 128 then { fill := .filling (BitVec.ofNat 8 (128 + e.val)), refs := 1 }
        else .empty
      waitList := [3] } }

/-- One EMPTY entry takes the banner's one missing code, and none does not; the wait list's head fits, or does not. -/
theorem witness_GlyphFetchAndAdmission_fits :
    (missingCodes (crowded 0).notices.cache ((crowded 0).notices.entries.get 4).fields).length = 1 ∧
      (emptyEntries (crowded 0).notices.cache).length = 0 ∧ (emptyEntries (crowded 1).notices.cache) = [127] ∧
      (crowded 1).notices.waitList.head? = some 3 ∧ bannerFits (crowded 1).notices 3 = true ∧
      bannerFits (crowded 0).notices 3 = false := by decide +kernel

theorem witness_ReportWriteCompleted :
    (ownWrite .reportRecord).isWrite = true ∧ running.active = true ∧ running.setup.mode = .report ∧
      liveOwn (reserved running 64 (ownWrite .reportRecord)) 64 (ownWrite .reportRecord) .reportRecord ∧
      liveOwn (reserved running 64 (ownWrite .reportHeader)) 64 (ownWrite .reportHeader) .reportHeader :=
  ⟨rfl, rfl, rfl, ⟨rfl, get_setAt_self _ _ _, 0, rfl⟩, rfl, get_setAt_self _ _ _, 0, rfl⟩

/-- The first 128 bytes of an accepted Setup Block without panels and streams (R177, R183): signature, version 1, mode
REPORT, cold start, the windows of `running`, NCO step 8589934, lobby time 0, lead, grace and gap 0. -/
def setupHead : List Byte :=
  [0x52, 0x57, 0x32, 0x34, 1, 1, 0, 0, 0, 0, 1, 0, 0, 0, 2, 0, 0, 8, 2, 0, 0, 0x40, 2, 0, 0, 0x80, 2, 0, 0, 0, 3, 0,
    0, 0x18, 3, 0, 0x6E, 0x12, 0x83, 0] ++ List.replicate 88 0

/-- An accepted Setup Block. -/
def setupBlock : List Byte := setupHead ++ List.replicate 3968 0

/-- LOADING with all reads of the Setup Block but the last answered, and that one under way. -/
def lastSetupRead (head : List Byte) : State :=
  let s := reserved loading 64 (ownRead (.setupRead 31) 16)
  { s with start := { s.start with setupGot :=
      (0, .ok head) :: (List.range 30).map fun k => (k + 1, .ok (List.replicate 128 0)) } }

/-- The last read of the Setup Block, in LOADING and in RESTARTING, and one before it, ended in each way. -/
theorem witness_SetupReadTaken (head : List Byte) (part : PartState) (h : part = .loading ∨ part = .restarting) :
    let s : State := later { lastSetupRead head with part := part }
    let first : State := later { reserved loading 64 (ownRead (.setupRead 31) 16) with part := part }
    endsEachWay s (.setupRead 31) 16 (fun st data => .setupReadComplete 64 st data) ∧
      endsEachWay first (.setupRead 31) 16 (fun st data => .setupReadComplete 64 st data) ∧
      (s.part = .loading ∨ s.part = .restarting) ∧ s.part = part ∧ s.start.stage = .setupReads ∧
      s.start.setupGot.length = 31 ∧ first.start.setupGot.length < 31 :=
  ⟨later_ends _ _ _ _ rfl (get_setAt_self _ _ _) (Nat.le_refl 2000),
    later_ends _ _ _ _ rfl (get_setAt_self _ _ _) (Nat.le_refl 2000), h, rfl, rfl,
    by simp [later, lastSetupRead], of_decide_eq_true rfl⟩

theorem witness_SetupReadTaken_accepted :
    (joinReads ((lastSetupRead setupHead).start.setupGot ++ [(31, resultFor .ok (List.replicate 128 0))]) 32).map
      (setupOk (lastSetupRead setupHead).setupBase) = some true := by decide +kernel

theorem witness_SetupReadTaken_refused :
    (joinReads ((lastSetupRead (List.replicate 128 0)).start.setupGot ++
        [(31, resultFor .ok (List.replicate 128 0))]) 32).map
      (setupOk (lastSetupRead (List.replicate 128 0)).setupBase) = some false := by decide +kernel

/-- A part whose clock runs and one whose clock stands, both with every stream at its power-on values. -/
theorem witness_SetupReadTaken_clock (running : Bool) :
    let s : State := { lastSetupRead setupHead with clock := { loading.clock with running := running } }
    s.part = .loading ∧ s.clock.running = running ∧ ∀ i, s.trailers.streams.get i = .empty :=
  ⟨rfl, rfl, (by decide +kernel : ∀ i, loading.trailers.streams.get i = .empty)⟩

/-- The three containment modes of a Setup Block. -/
theorem witness_SetupReadTaken_modes :
    ([1, 2, 3].map fun k : Byte => u8 (setupBlock.set 5 k) 5) = [1, 2, 3] := by decide +kernel

theorem witness_BuildReadFaulted :
    ∀ k ∈ [0, 127, 128, 143, 144, 239, 240, 255, 256, 261, 262], (buildingAt k).resetN = true ∧
      (buildingAt k).rebuilding = true ∧
      (buildingAt k).start.stage = .build ∧ (buildItem (buildingAt k).start.resume k).isSome = true ∧
      k + 1 < buildTotal (buildingAt k).start.resume ∧ (buildingAt k).start.buildDone = k ∧
      (buildingAt k).start.buildGot = [] ∧
      (reserved (buildingAt k) 64 (ownRead (.buildRead k) 16)).traffic.tags.get 64 =
        some (ownRead (.buildRead k) 16) ∧ buildItem true 128 = some (.journal 0) := by decide +kernel

/-- BUILDING, with the answer to build read `k`, of `n` beats, the next to be taken. -/
def nextAt (resume : Bool) (k n : Nat) : State :=
  reserved { buildingAt k with start := { (buildingAt k).start with resume := resume } } 64 (ownRead (.buildRead k) n)

/-- The answer to a read of the build of `nextAt` is the next. -/
theorem nextAt_next (resume : Bool) (k n : Nat) (item : BuildItem) (h : buildItem resume k = some item)
    (l : k + 1 < buildTotal resume) :
    nextBuildRead (nextAt resume k n) 64 (ownRead (.buildRead k) n) k item :=
  ⟨⟨rfl, get_setAt_self _ _ _, 0, rfl⟩, rfl, rfl, rfl, h, l, rfl, rfl⟩

/-- The first and last blocks of the showings and of the journal, with no hold live. -/
theorem witness_BuildSeatsAndJournalRead (resume : Bool) :
    nextBuildRead (nextAt resume 0 16) 64 (ownRead (.buildRead 0) 16) 0 (.showings 0) ∧
      nextBuildRead (nextAt resume 127 16) 64 (ownRead (.buildRead 127) 16) 127 (.showings 127) ∧
      nextBuildRead (nextAt true 128 16) 64 (ownRead (.buildRead 128) 16) 128 (.journal 0) ∧
      nextBuildRead (nextAt true 136 8) 64 (ownRead (.buildRead 136) 8) 136 (.journal 8) ∧
      (List.replicate 128 (0 : Byte)).length = 8 * 16 ∧ (List.replicate 64 (0 : Byte)).length = 8 * 8 ∧
      ∀ h, (nextAt resume 0 16).holds.get h = none :=
  ⟨nextAt_next _ _ _ _ (by cases resume <;> rfl) (by cases resume <;> decide),
    nextAt_next _ _ _ _ (by cases resume <;> rfl) (by cases resume <;> decide),
    nextAt_next _ _ _ _ rfl (by decide), nextAt_next _ _ _ _ rfl (by decide), by simp, by simp,
    fun h => Vector.getElem_replicate _⟩

/-- Records at the ends of the ranges of R37, and headers at those of R58. -/
theorem witness_BuildSeatsAndJournalRead_records :
    (∀ bs ∈ [showingBytes 63 31 1 1, showingBytes 0 0 2 255], ¬(2 < u8 bs 2 ∨ (u8 bs 2 ≠ 0 ∧ (63 < u8 bs 0 ∨
        31 < u8 bs 1 ∨ 1048576 ≤ u32 bs 4 ∨ u16 bs 8 = 0 ∨ 999 < u16 bs 8))) ∧ u8 bs 2 ≠ 0) ∧
      (∀ bs ∈ [showingBytes 0 0 3 1, showingBytes 64 0 1 1, showingBytes 0 32 2 1, showingBytes 0 0 1 0],
        2 < u8 bs 2 ∨ (u8 bs 2 ≠ 0 ∧ (63 < u8 bs 0 ∨ 31 < u8 bs 1 ∨ u16 bs 8 = 0))) ∧
      (∀ x ∈ [([63, 1] : List Byte), [0, 2]], u8 x 0 ≤ 63 ∧ (u8 x 1 = 1 ∨ u8 x 1 = 2)) ∧
      ∀ x ∈ [([64, 1] : List Byte), [63, 0], [63, 3]], ¬(u8 x 0 ≤ 63 ∧ (u8 x 1 = 1 ∨ u8 x 1 = 2)) := by decide +kernel

/-- The first and last blocks of each table after the journal, but for the last block of all. -/
theorem witness_BuildTablesRead :
    ∀ x ∈ [(128, BuildItem.titles 0), (143, .titles 15), (144, .layouts 0), (239, .layouts 95), (240, .notices 0),
        (255, .notices 15), (256, .catalog 0), (261, .catalog 5), (262, .rotation 0)],
      nextBuildRead (nextAt false x.1 16) 64 (ownRead (.buildRead x.1) 16) x.1 x.2 := by
  intro x h
  simp only [List.mem_cons, List.not_mem_nil, or_false] at h
  rcases h with rfl | rfl | rfl | rfl | rfl | rfl | rfl | rfl | rfl <;>
    exact nextAt_next _ _ _ _ rfl (by decide)

/-- The fourth block of a layout after three kept ones, and after a faulted one. -/
theorem witness_BuildTablesRead_of_a_layout (parts : List ReadResult) :
    let s : State := { nextAt false 147 16 with start := { (nextAt false 147 16).start with layoutParts := parts } }
    nextBuildRead s 64 (ownRead (.buildRead 147) 16) 147 (.layouts 3) ∧ s.start.layoutParts = parts ∧
      3 % 4 = 3 ∧ (0 : PanelIx).val = 3 / 4 :=
  ⟨⟨⟨rfl, get_setAt_self _ _ _, 0, rfl⟩, rfl, rfl, rfl, rfl, of_decide_eq_true rfl, rfl, rfl⟩, rfl, rfl, rfl⟩

theorem witness_RunningEntered :
    263 + 1 = buildTotal (buildingAt 263).start.resume ∧ 272 + 1 = buildTotal true ∧
      (buildingAt 263).rebuilding = true ∧ (buildingAt 263).start.stage = .build ∧
      (buildingAt 263).start.buildDone = 263 ∧ (buildingAt 263).start.buildGot = [] ∧
      (streaming.setup.streams.get 2).enabled = true ∧ (streaming.setup.streams.get 3).enabled = false := by
  decide +kernel

/-- The last read of a build, with a pending time set or none, ended in each way. -/
theorem witness_RunningEntered_ends (set : Option LobbyTime) :
    let s : State := later { reserved (buildingAt 263) 64 (ownRead (.buildRead 263) 16) with
      clock := { running.clock with pendingSet := set } }
    endsEachWay s (.buildRead 263) 16 (fun st data => .buildReadComplete 64 st data) ∧ s.rebuilding = true ∧
      s.start.stage = .build ∧ s.start.buildDone = 263 ∧ s.start.buildGot = [] ∧ s.clock.pendingSet = set :=
  ⟨later_ends _ _ _ _ rfl (get_setAt_self _ _ _) (by decide +kernel : (2 : Nat) ≤ 2000), rfl, rfl, rfl, rfl, rfl⟩

/-- A pending time set at the two ends of the forward jump, 255 withheld seconds, and the gap condition, standing and
not. -/
theorem witness_RunningEntered_clauses :
    let set (v : LobbyTime) : Clock := { running.clock with pendingSet := some v, withheld := 255 }
    (set 524287).pendingSet.isSome = true ∧ (set 524287).withheld ≤ 255 ∧ running.clock.pendingSet = none ∧
      distance running.clock.now ((set 524287).pendingSet.getD 0) < 524288 ∧
      distance running.clock.now ((set 524288).pendingSet.getD 0) = 524288 ∧
      (gapAt63.journal.marks.get gapAt63.journal.tail = false ∧ gapAt63.journal.marks.get 2 = true ∧
        running.journal.gapStart = none) ∧
      (∀ i, running.journal.marks.get i = false) ∧ (buildingAt 263).reports.room = 63 := by decide +kernel

/-- No pending set, and 60 and 59 withheld seconds from lobby second 0: a multiple of 60 is among them, and is not. The
withheld seconds go past the end of the lobby time as well. -/
theorem witness_RunningEntered_rolls :
    running.clock.now = 0 ∧ running.clock.pendingSet = none ∧
      (∃ j, j < 60 ∧ (running.clock.now + BitVec.ofNat 20 (j + 1)).toNat % 60 = 0) ∧
      (¬∃ j, j < 59 ∧ (running.clock.now + BitVec.ofNat 20 (j + 1)).toNat % 60 = 0) ∧
      ((1048575 : LobbyTime) + BitVec.ofNat 20 (0 + 1)).toNat % 60 = 0 := by
  refine ⟨rfl, rfl, ⟨59, by decide, by decide⟩, ?_, by decide⟩
  rintro ⟨j, h, e⟩
  revert e
  decide +revert

/-- On a board the CLOCK line follows the time; a roster line follows it with a pending set, and no other line does. -/
theorem witness_RunningEntered_boards :
    (boarded.line 0 0).kind = .clock ∧ rosterKind (boarded.line 0 1).kind ∧ (boarded.line 0 3).kind = .notice :=
  ⟨by decide +kernel, .inr (by decide +kernel), by decide +kernel⟩

theorem witness_RestartReloaded :
    restarting.resetN = true ∧ restarting.part = .restarting ∧ ownOutstanding restarting = false ∧
      restarting.start.stage = .wait ∧ ∀ bs : List Byte,
        ({ restarting with start := { restarting.start with stage := .accepted bs } } : State).start.stage =
          .accepted bs := by
  refine ⟨rfl, rfl, by decide +kernel, rfl, fun _ => rfl⟩

/-- The clock runs as the accepted block is taken, and stands. -/
theorem witness_RestartReloaded_clock (running : Bool) (bs : List Byte) :
    let s : State := { restarting with
      clock := { restarting.clock with running := running }, start := { restarting.start with stage := .accepted bs } }
    s.resetN = true ∧ s.part = .restarting ∧ ownOutstanding s = false ∧ s.start.stage = .accepted bs ∧
      s.clock.running = running :=
  ⟨rfl, rfl, (by decide +kernel : ownOutstanding restarting = false), rfl, rfl⟩

/-- A paint in a slot as the restart begins, and a place in none. -/
theorem witness_RestartReloaded_slots :
    let s : State := { restarting with painter := { restarting.painter with slots := [paint] } }
    s.resetN = true ∧ s.part = .restarting ∧ ownOutstanding s = false ∧ s.start.stage = .wait ∧
      (∃ x ∈ s.painter.slots, x.ref = paint.ref) ∧ ∀ x ∈ s.painter.slots, x.ref ≠ { paint.ref with cell := 2 } := by
  refine ⟨rfl, rfl, by decide +kernel, rfl, ⟨paint, by simp, rfl⟩, by simp [paint]⟩

theorem witness_FigureNeverAboveSeatsLeft :
    (1 : Nat) ≤ 1 ∧ (∀ x, (none : Option Nat) = some x → 0 < x) ∧ ∀ x, some 6 = some x → 5 < x := by
  refine ⟨by decide, by simp, ?_⟩
  intro x h
  cases h
  decide

/-- The ends of the range in which a shown 10 stands under Q 5 and H 2, and the seats beside them. -/
theorem witness_FigureNeverAboveSeatsLeft_keeps :
    (5 ≤ 5 ∧ 5 < 6) ∧ (10 ≤ 10 ∧ 16 < 10 + 5 + 2) ∧ (9 < 10 ∧ 10 + 5 + 2 ≤ 17) := by decide

/-- A roster of the one eligible showing; a line assigned it and one assigned none, a CLOCK line and a NOTICE line
without a notice; and a change of a showing that the panel's hall mask has, into a phase that stands on no board. -/
theorem witness_RosterAndLineContent :
    rosterOf boarded 0 = [5] ∧ lineAt (assignRoster boarded 0).roster.assign 0 1 = some 5 ∧
      lineAt (assignRoster boarded 0).roster.assign 0 2 = none ∧ (boarded.line 0 1).kind = .rosterNarrow ∧
      (boarded.line 0 2).kind = .rosterWide ∧ (boarded.line 0 0).kind = .clock ∧ (boarded.line 0 3).kind = .notice ∧
      (boarded.line 0 4).kind = .unused ∧ (lineRanking boarded.notices 0)[(boarded.line 0 3).rank]? = none ∧
      ({ boarded.seats.entries.get 5 with changed := 0 } : Seat) ≠ { onSale with phase := .closed } ∧
      (boarded.seats.entries.get 5).phase ≠ .vacant ∧
      (boarded.roster.layouts.get 0).filter.halls.getLsbD (boarded.seats.entries.get 5).hall.val = true := by
  decide +kernel

/-- The phases of a seat field, and a notice at the head of a panel's ranking (R87, R92). -/
theorem witness_RosterAndLineContent_fields :
    (∀ p ∈ [Phase.onSale, .lastCall, .started], ({ onSale with phase := p } : Seat).phase = p) ∧
      ({ onSale with left := 0 } : Seat).left = 0 ∧
      (let lit : Notice := { banner .lineActive 1 6 7 with entries := [] }
       (lineRanking { boarded.notices with entries := setAt boarded.notices.entries 31 lit } 0)[0]? = some 31) ∧
      (boarded.line 0 3).rank = 0 := by decide +kernel

theorem witness_AddressClassesAndCommitBytes :
    setupOk 0x20000000 setupBlock = true ∧
      (allRanges 0x20000000 (setupOf setupBlock))[0]? = some (0x20000000, 4096) ∧
      (allRanges 0x20000000 (setupOf setupBlock))[1]? = some (0x10000, 16384) := by decide +kernel

/-- RUNNING under `setupBlock`, and the part after a refused load: the ends of a window's used area and of the Setup
Block. -/
theorem witness_AddressClassesAndCommitBytes_classes :
    let s : State := { running with setup := setupOf setupBlock }
    s.decoder = .all ∧ s.setupBase = 0x20000000 ∧ classify s 0x2043F = .windowRecord .journal 1087 ∧
      classify s 0x20440 = .windowUnused .journal ∧ classify s 0x20000FFF = .setup 4095 ∧
      classify s 0x20001000 = .pass ∧ classify { s with decoder := .setupOnly } 0x2043F = .pass ∧
      classify loading 0x20000000 = .pass := by decide +kernel

/-- A write of one beat that covers the revision byte of showing 5 (R7). -/
theorem witness_AddressClassesAndCommitBytes_records :
    recordedItems running (.windowRecord .showings 344) (write1 0x10158 7) = [.revision (.showing 5) 7] ∧
      recordedItems running (.setup 3976) (write1 0x20000F88 7) = [.timeSet 7 (some [7, 7, 7, 7])] ∧
      recordedItems running (.windowRecord .showings 280)
          { isWrite := true, addr := 0x10118, beats := 9, lanes := List.replicate 72 (some 7) } =
        [.revision (.showing 4) 7, .revision (.showing 5) 7] ∧
      recordedItems restarting (.windowRecord .showings 344) (write1 0x10158 7) = [] := by decide +kernel

theorem witness_TagLawKept : TagLaw running ∧ step running = .next (refclk running) :=
  ⟨⟨fun m u h => by simp [running, State.reset, Traffic.initial] at h,
    fun m n u v _ h => by simp [running, State.reset, Traffic.initial] at h⟩, rfl⟩

theorem witness_CapacityLawKept : CapacityLaw running :=
  ⟨by decide, by decide, by decide, by decide, by decide, by decide⟩

theorem witness_SeatLawsKept : SellableLaw running ∧ SeatLaw running := by
  constructor
  · intro t
    simp [running, State.reset, SeatUnit.initial, standing, standsFor, Seat.vacant]
  · constructor <;> simp [running, State.reset, SeatUnit.initial, Seat.vacant, Seat.sound, heldBy, DueList.empty]

/-- The law of offers in a state that offers a write-back. -/
theorem witness_OfferLawKept : OfferLaw showingMarked := by
  have h : showingMarked.offers = { commit := [.writeBack (.showing 5)], painter := none, report := none } := by
    decide +kernel
  refine ⟨?_, by simp [h], by simp [h], by decide +kernel, by decide +kernel, by decide +kernel, by decide +kernel,
    by decide +kernel⟩
  intro o k
  simp only [h, List.mem_singleton] at k
  subst k
  exact ⟨rfl, by decide +kernel, by decide +kernel⟩

theorem witness_CellLawKept : CellLaw running := by
  refine ⟨fun r h => ?_, by simp [running, State.reset, Painter.initial], fun r => ?_⟩
  · exfalso
    have : (running.line r.panel r.line).cells = 0 := by
      simp [State.line, running, State.reset, RosterUnit.initial, Layout.empty, Line.unused, Line.cells]
    simp [isCell, this] at h
  · simp [cellMarks, cellAt, running, State.reset, Painter.initial, CellMarks.clear]

theorem witness_SlotLawKept : SlotLaw running := by
  constructor <;>
    simp [running, State.reset, TrailerUnit.initial, Stream.empty, FrameSlot.free, passesOn, PanelScan.idle]

theorem witness_CacheLawKept : running.active = true ∧ CacheLaw running := by
  refine ⟨rfl, ?_⟩
  constructor <;>
    simp [running, State.reset, NoticeUnit.initial, Notice.idle, CacheEntry.empty, references, heldEntries,
      latchRefs, PanelScan.idle, Fill.code, Fill.isHeld]

theorem witness_DueLawKept : running.active = true ∧ DueLaw running := by
  refine ⟨rfl, ?_⟩
  constructor <;> simp [running, State.reset, NoticeUnit.initial, Notice.idle, DueList.empty]
  intro k
  cases k with
  | phase i => simp [expects, SeatUnit.initial, Seat.vacant, passesGate]
  | hold h => simp [expects]
  | notice n => simp [expects]

/-- The standing laws of a part in RUNNING, and of one that begins a build. -/
theorem witness_CacheAndDueLawsStand : StandingLaws running ∧ StandingLaws (buildingAt 0) ∧ reading (buildingAt 0) := by
  refine ⟨⟨?_, ?_, fun _ => ⟨witness_CacheLawKept.2, witness_DueLawKept.2⟩⟩, ⟨?_, fun _ => ⟨?_, ?_, ?_⟩, ?_⟩, rfl, rfl⟩
  · rintro (h | h) <;> exact absurd h (by decide)
  · rintro ⟨h, -⟩
    exact absurd h (by decide)
  · rintro (h | h) <;> exact absurd h (by decide)
  · constructor <;>
      simp [buildingAt, running, State.reset, NoticeUnit.initial, Notice.idle, CacheEntry.empty, references,
        heldEntries, latchRefs, PanelScan.idle, Fill.code, Fill.isHeld]
  · constructor <;>
      simp [buildingAt, running, State.reset, NoticeUnit.initial, Notice.idle, DueList.empty]
    intro k
    cases k with
    | phase i => simp [expects, SeatUnit.initial, Seat.vacant, passesGate]
    | hold h => simp [expects]
    | notice n => simp [expects]
  · constructor <;>
      simp [buildingAt, running, State.reset, NoticeUnit.initial, Notice.idle, SeatUnit.initial, Seat.vacant,
        Start.initial]
  · intro h
    exact absurd h (by decide)

end Sys2Proof.Tests
end

section
namespace Sys2Proof.Machine

/-! ### What a step can do to the state that the laws of this family read -/

/-- `t` agrees with `s` in all that the laws of seats, of the glyph cache and of the Due List read. -/
structure Still (s t : State) : Prop where
  resetN : t.resetN = s.resetN
  part : t.part = s.part
  stage : t.start.stage = s.start.stage
  resume : t.start.resume = s.start.resume
  done : t.start.buildDone = s.start.buildDone
  posted : t.start.posted = s.start.posted
  seats : t.seats = s.seats
  holds : t.holds = s.holds
  now : t.clock.now = s.clock.now
  due : t.due = s.due
  entries : t.notices.entries = s.notices.entries
  waitList : t.notices.waitList = s.notices.waitList
  cache : t.notices.cache = s.notices.cache
  scan : t.scan = s.scan

/-- One thing that a step does to the state these laws read, with what held when it did it. Every step is a chain of
such moves (`step_moves`), so a law that each move keeps is kept by every step. -/
inductive Move (s : State) : State → Prop
  /-- nothing that the laws read -/
  | still (t : State) (h : Still s t) : Move s t
  /-- to a state in which nothing is expected: TRANSPARENT, or a warm restart before its build -/
  | aside (t : State) (high : t.resetN = true)
      (part : t.part = .transparent ∨ t.part = .restarting ∧ t.start.stage ≠ .build)
      (seats : t.seats = s.seats) (holds : t.holds = s.holds) (due : t.due = s.due ∨ t.due = .empty) : Move s t
  | reset : Move s (held s)
  | load (b : BitVec 3) (low : s.resetN = false) : Move s (beginLoad s b)
  | accept (bs : List Byte) (resume : Bool) (high : s.resetN = true) (loading : s.part = .loading) :
      Move s (beginBuild { takeValues s bs with part := .building } resume)
  | reload (bs : List Byte) (high : s.resetN = true) (restarting : s.part = .restarting) :
      Move s (beginBuild (clearOwners (takeValues s bs)) true)
  | built (l : List (Nat × ReadResult)) (b : BuildItem) (x : ReadResult) (build : reading s) (high : s.resetN = true)
      (item : buildItem s.start.resume s.start.buildDone = some b) :
      Move s (buildRead { s with start := { s.start with buildDone := s.start.buildDone + 1, buildGot := l } } b x)
  | running (build : reading s) (high : s.resetN = true) (last : s.start.buildDone = buildTotal s.start.resume) :
      Move s (enterRunning s)
  | quiet (active : s.active = true) (high : s.resetN = true) : Move s (enterQuiet s)
  | second (high : s.resetN = true) (apart : s.rebuilding = false) : Move s (secondAdvance s)
  | time (active : s.active = true) (high : s.resetN = true) (v : LobbyTime) : Move s (moveTime s v)
  | showing (active : s.active = true) (high : s.resetN = true)
      (i : ShowingIx) (bs : List Byte) : Move s (handShowing s i bs)
  | notice (active : s.active = true) (high : s.resetN = true)
      (n : NoticeIx) (bs : List Byte) : Move s (handNotice s n bs)
  | journal (active : s.active = true) (high : s.resetN = true) (r : JournalRec) : Move s (applyJournal s r)
  | phase (active : s.active = true) (high : s.resetN = true)
      (i : ShowingIx) (p : Phase) (t : LobbyTime) (rest : List DueEntry)
      (batch : s.due.batch = { key := .phase i, target := some p, time := t } :: rest) :
      Move s (firePhase (popBatch s) i p)
  | hold (active : s.active = true) (high : s.resetN = true)
      (h : HoldIx) (p : Option Phase) (t : LobbyTime) (rest : List DueEntry)
      (batch : s.due.batch = { key := .hold h, target := p, time := t } :: rest) :
      Move s (expireHold (popBatch s) h)
  | expiry (active : s.active = true) (high : s.resetN = true)
      (n : NoticeIx) (p : Option Phase) (t : LobbyTime) (rest : List DueEntry)
      (batch : s.due.batch = { key := .notice n, target := p, time := t } :: rest) :
      Move s (expireNotice (popBatch s) n)
  | glyph (active : s.active = true) (high : s.resetN = true) (e : CacheIx) (x : ReadResult) : Move s (fillEntry s e x)
  | scan (active : s.active = true) (high : s.resetN = true) (p : PanelIx) (row : Nat) : Move s (scanRead s p row)
  | idle (active : s.active = true) (high : s.resetN = true) (p : PanelIx) : Move s (endPass s p)

/-- A chain of moves. -/
abbrev Moves : State → State → Prop := Relation.ReflTransGen Move

theorem Move.moves {s t : State} (h : Move s t) : Moves s t := .single h

theorem Still.moves {s t : State} (h : Still s t) : Moves s t := .single (.still t h)

/-- Moves after a change of what the laws do not read. -/
theorem Still.andThen {s s' t : State} (h : Still s s') (k : Moves s' t) : Moves s t := h.moves.trans k

/-- A law that every move keeps is kept by a chain of moves. -/
theorem Moves.keep {P : State → Prop} (k : ∀ s t, P s → Move s t → P t) {s t : State} (h : Moves s t) (hs : P s) :
    P t := by
  induction h with
  | refl => exact hs
  | tail _ m ih => exact k _ _ ih m

theorem Moves.foldl {α : Type} (f : State → α → State) (P : State → Prop)
    (h : ∀ s a, P s → Moves s (f s a) ∧ P (f s a)) (l : List α) (s : State) (hs : P s) : Moves s (l.foldl f s) := by
  induction l generalizing s with
  | nil => exact .refl
  | cons a l ih => exact (h s a hs).1.trans (ih _ (h s a hs).2)

/-! ### Faults and containment (R171 to R174) -/

/-- In RUNNING or QUIET the containment does nothing, or the part enters QUIET or TRANSPARENT. -/
theorem contain_moves {s : State} (ha : s.active = true) (hr : s.resetN = true) (c : Containment) :
    Moves s (contain s c) := by
  unfold contain
  split
  · exact (Move.quiet ha hr).moves
  · exact (Move.aside _ (by simpa using hr) (.inl rfl) (by simp) (by simp) (.inr rfl)).moves
  · exact .refl

theorem memoryFault_moves {s : State} (ha : s.active = true) (hr : s.resetN = true) (r : Requester) (a : BitVec 32)
    (w : Bool) : Moves s (memoryFault s r a w) := by
  have h0 : Still s (raise s .memoryFault (le8 r.code)
      (le32 a.toNat ++ le8 (classify s a.toNat).code ++ le8 (kindCode w) ++
        le8 (containment s.setup.mode s.part false).code)) := by constructor <;> simp
  exact h0.moves.trans (contain_moves (by simpa [State.active] using ha) (by simpa using hr) _)

theorem reportWriteFault_moves {s : State} (ha : s.active = true) (hr : s.resetN = true) (b : Bool) :
    Moves s (reportWriteFault s b) := by
  unfold reportWriteFault
  refine Still.andThen ?_ (contain_moves (by exact ha) (by exact hr) _)
  constructor <;> rfl

/-- A part in RUNNING or QUIET that a fault does not make TRANSPARENT stays in one of the two. -/
theorem memoryFault_active {s : State} (ha : s.active = true) {r : Requester} {a : BitVec 32} {w : Bool}
    (h : (memoryFault s r a w).part ≠ .transparent) : (memoryFault s r a w).active = true := by
  have hp : (memoryFault s r a w).part = s.part ∨ (memoryFault s r a w).part = .quiet ∨
      (memoryFault s r a w).part = .transparent := by
    unfold memoryFault
    exact contain_part _ _
  rcases hp with e | e | e
  · simpa only [State.active, e] using ha
  · simp [State.active, e]
  · exact absurd e h

theorem paintMemoryFault_moves {s : State} (ha : s.active = true) (hr : s.resetN = true) (k : Fin 2)
    (a : BitVec 32) (w : Bool) : Moves s (paintMemoryFault s k a w) := by
  unfold paintMemoryFault
  repeat' split
  · exact memoryFault_moves ha hr _ _ _
  · exact .refl
  · exact .refl

/-! ### Record fetches and the tail fetch (R13, R43) -/

/-- A record handed over is a showing, a notice, or one that these laws do not read. -/
theorem handRecord_moves {s : State} (ha : s.active = true) (hr : s.resetN = true) (r : RecordId) (bs : List Byte) :
    Moves s (handRecord s r bs) := by
  cases r with
  | showing i => exact (Move.showing ha hr i bs).moves
  | notice n => exact (Move.notice ha hr n bs).moves
  | layout p => exact Still.moves (by constructor <;> simp [handRecord])
  | title t => exact Still.moves (by constructor <;> simp [handRecord])
  | catalog e => exact Still.moves (by constructor <;> simp [handRecord])
  | rotation i => exact Still.moves (by constructor <;> simp [handRecord])

theorem requeue_still (s : State) (r : RecordId) : Still s (requeue s r) := by constructor <;> simp

theorem setFetchState_still (s : State) (r : RecordId) (f : FetchState) : Still s (setFetchState s r f) := by
  constructor <;> simp

theorem fetchOk_moves {s : State} (ha : s.active = true) (hr : s.resetN = true) (r : RecordId) (bs : List Byte) :
    Moves s (fetchOk s r bs) := by
  unfold fetchOk
  split
  · exact (requeue_still s r).moves
  · exact (setFetchState_still s r .idle).moves.trans (handRecord_moves (by simpa [State.active] using ha)
        (by simpa using hr) r bs)

theorem fetchFault_moves {s : State} (ha : s.active = true) (hr : s.resetN = true) (r : RecordId) (k : Nat) :
    Moves s (fetchFault s r k) := by
  have h := memoryFault_moves ha hr .commit (fetchBurst s r k).addr false
  unfold fetchFault
  dsimp only
  repeat' split
  · exact h
  · exact h.trans (requeue_still _ r).moves
  · exact h.trans (setFetchState_still _ r .idle).moves

theorem commitFetchDone_moves {s : State} (ha : s.active = true) (hr : s.resetN = true) (r : RecordId) (k : Nat)
    (x : ReadResult) : Moves s (commitFetchDone s r k x) := by
  have h0 : ∀ c, Still s { s with commit := c } := fun c => by constructor <;> rfl
  unfold commitFetchDone
  dsimp only
  repeat' split
  · exact .refl
  · exact (h0 _).moves
  · unfold endFetch
    dsimp only
    split
    · exact (h0 _).andThen (fetchFault_moves (by exact ha) (by exact hr) _ _)
    · exact (h0 _).andThen (fetchOk_moves (by exact ha) (by exact hr) _ _)

theorem journalFetchDone_moves {s : State} (ha : s.active = true) (hr : s.resetN = true) (a : BitVec 32)
    (x : ReadResult) : Moves s (journalFetchDone s a x) := by
  have h0 : Still s (setJournalFetch s .none) := by constructor <;> simp
  have h1 : ∀ t, Still t (advanceTail t) := fun t => by constructor <;> simp
  have h2 : ∀ t, Still t (skipFaulted t) := fun t => by constructor <;> simp
  unfold journalFetchDone
  dsimp only
  repeat' split
  · exact h0.moves
  · refine (h0.moves.trans (Move.journal ?_ ?_ _).moves).trans (h1 _).moves
    · simpa [State.active] using ha
    · simpa using hr
  · exact memoryFault_moves ha hr _ _ _
  · exact (memoryFault_moves ha hr _ _ _).trans (h2 _).moves

/-! ### Paints, glyph fetches and report writes (R101 to R104, R120, R169) -/

theorem modPaint_still (s : State) (k : Fin 2) (f : Paint → Paint) : Still s (modPaint s k f) := by
  constructor <;> simp

theorem glyphReadDone_moves {s : State} (ha : s.active = true) (hr : s.resetN = true) (k : Fin 2) (a : BitVec 32)
    (x : ReadResult) : Moves s (glyphReadDone s k a x) := by
  have h := paintMemoryFault_moves ha hr k a false
  unfold glyphReadDone
  dsimp only
  repeat' split
  · exact (modPaint_still _ _ _).moves
  · exact h
  · exact h.trans (modPaint_still _ _ _).moves

theorem rowWriteDone_moves {s : State} (ha : s.active = true) (hr : s.resetN = true) (k : Fin 2) (r : Nat)
    (a : BitVec 32) (x : ReadResult) : Moves s (rowWriteDone s k r a x) := by
  have h := paintMemoryFault_moves ha hr k a true
  unfold rowWriteDone
  dsimp only
  repeat' split
  · exact (modPaint_still _ _ _).moves
  · exact h
  · exact h.trans (modPaint_still _ _ _).moves

theorem glyphFetchDone_moves {s : State} (ha : s.active = true) (hr : s.resetN = true) (e : CacheIx)
    (a : BitVec 32) (x : ReadResult) : Moves s (glyphFetchDone s e a x) := by
  have h := memoryFault_moves ha hr .notice a false
  unfold glyphFetchDone
  dsimp only
  repeat' split
  · exact (Move.glyph ha hr e _).moves
  · exact h
  · next hp => exact h.trans (Move.glyph (memoryFault_active ha hp) (by simpa using hr) e .fault).moves

/-! ### Loads and builds (R176 to R179) -/

theorem setupReadDone_moves {s : State} (hp : s.part = .loading ∨ s.part = .restarting) (hr : s.resetN = true)
    (k : Nat) (x : ReadResult) : Moves s (setupReadDone s k x) := by
  have h0 : Still s { s with start := { s.start with setupGot := s.start.setupGot ++ [(k, x)] } } := by
    constructor <;> rfl
  have href : ∀ t : State, t.resetN = true → Move t (refuseLoad t) := fun t ht =>
    .aside _ (by simpa [refuseLoad] using ht) (.inl rfl) (by simp [refuseLoad]) (by simp [refuseLoad]) (.inr rfl)
  have hacc : ∀ (t : State) (bs : List Byte), t.resetN = true → t.part = s.part → Move t (acceptLoad t bs) := by
    intro t bs ht hpt
    rcases acceptLoad_cases t bs with ⟨h1, h2⟩ | ⟨h1, h2⟩
    · rw [h2]; exact .accept bs _ ht h1
    · rw [h2]
      have : t.part = .restarting := by rcases hp with e | e <;> simp_all
      exact .aside _ ht (.inr ⟨this, by simp⟩) rfl rfl (.inl rfl)
  unfold setupReadDone
  dsimp only
  repeat' split
  · exact h0.moves
  · refine h0.moves.trans (Move.moves ?_)
    exact hacc _ _ hr rfl
  · refine h0.moves.trans (Move.moves ?_)
    exact href _ hr
  · refine h0.moves.trans (Move.moves ?_)
    exact href _ hr

/-- A build read taken leaves the part reading its tables: of Start it can change the posted notices and the layout
parts alone. -/
theorem buildRead_start (s : State) (b : BuildItem) (x : ReadResult) :
    (buildRead s b x).start.stage = s.start.stage ∧ (buildRead s b x).start.resume = s.start.resume ∧
      (buildRead s b x).start.buildDone = s.start.buildDone := by
  have hn : ∀ {γ : Type} (g : Start → γ), (∀ z l, g { z with posted := l } = g z) → ∀ (t : State) n r,
      g (buildNoticeAt t n r).start = g t.start := by
    intro γ g hg t n r
    unfold buildNoticeAt buildNotice
    dsimp only
    (repeat' split) <;> simp [hg]
  cases b with
  | notices k =>
    simp only [buildRead]
    unfold buildNotices
    dsimp only
    refine ⟨?_, ?_, ?_⟩
    · split <;> simp [buildBlock_keeps (fun t => t.start.stage) _ (fun t j r => hn Start.stage (fun _ _ => rfl) t _ r)]
    · split <;>
        simp [buildBlock_keeps (fun t => t.start.resume) _ (fun t j r => hn Start.resume (fun _ _ => rfl) t _ r)]
    · split <;>
        simp [buildBlock_keeps (fun t => t.start.buildDone) _ (fun t j r => hn Start.buildDone (fun _ _ => rfl) t _ r)]
  | layouts k =>
    simp only [buildRead]
    unfold buildLayouts
    dsimp only
    split <;> simp
  | showings k => simp [buildRead, buildBlock_keeps State.start]
  | journal k => simp [buildRead]
  | titles k => simp [buildRead, buildBlock_keeps State.start]
  | catalog k => simp [buildRead, buildBlock_keeps State.start]
  | rotation k => simp [buildRead, buildBlock_keeps State.start]

/-- The build reads taken in order are moves, and leave the part reading its tables. -/
theorem buildDrain_moves (n : Nat) {s : State} (h : reading s) (hr : s.resetN = true) :
    Moves s (buildDrain n s) ∧ reading (buildDrain n s) ∧ (buildDrain n s).resetN = true := by
  induction n generalizing s with
  | zero => exact ⟨.refl, h, hr⟩
  | succ n ih =>
    simp only [buildDrain]
    split
    · next t ht =>
      unfold buildNext at ht
      split at ht
      · next x b hx hb =>
        cases ht
        have hs := buildRead_start { s with start := { s.start with
          buildDone := s.start.buildDone + 1
          buildGot := s.start.buildGot.filter fun e => e.1 != s.start.buildDone } } b x
        have hread : reading (buildRead { s with start := { s.start with
            buildDone := s.start.buildDone + 1
            buildGot := s.start.buildGot.filter fun e => e.1 != s.start.buildDone } } b x) := by
          refine ⟨?_, hs.1.trans h.2⟩
          simpa [State.rebuilding] using h.1
        obtain ⟨h1, h2⟩ := ih hread (by simpa using hr)
        exact ⟨(Move.built _ b x h hr hb).moves.trans h1, h2⟩
      · cases ht
    · exact ⟨.refl, h, hr⟩

theorem markAll_still (s : State) : Still s (markAll s) := by constructor <;> simp

theorem buildReadDone_moves {s : State} (h : reading s) (hr : s.resetN = true) (k : Nat) (x : ReadResult) :
    Moves s (buildReadDone s k x) := by
  have h0 : Still s { s with start := { s.start with buildGot := s.start.buildGot ++ [(k, x)] } } := by
    constructor <;> rfl
  obtain ⟨h1, h2, h3⟩ := buildDrain_moves (s.start.buildGot ++ [(k, x)]).length
    (s := { s with start := { s.start with buildGot := s.start.buildGot ++ [(k, x)] } }) h hr
  unfold buildReadDone
  dsimp only
  split
  · next hd =>
    refine ((h0.moves.trans h1).trans (markAll_still _).moves).trans (Move.running ?_ ?_ ?_).moves
    · exact ⟨by simpa [State.rebuilding] using h2.1, by simpa using h2.2⟩
    · simpa using h3
    · simpa using hd
  · exact h0.moves.trans h1

/-! ### Own requests answered, and commits taken (R6 to R11, R160) -/

theorem ownDone_moves {s : State} (hr : s.resetN = true) (a : BitVec 32) (p : OwnPurpose) (x : ReadResult) :
    Moves s (ownDone s a p x) := by
  unfold ownDone
  split
  · next haw =>
    cases p <;> simp only [ownEffect]
    case setupRead k => exact setupReadDone_moves (by simp [awaits] at haw; exact haw.1) hr k x
    case buildRead k => exact buildReadDone_moves (by simpa [awaits, reading] using haw) hr k x
    case commitFetch r k => exact commitFetchDone_moves haw hr r k x
    case journalFetch => exact journalFetchDone_moves haw hr a x
    case writeBack w =>
      unfold writeBackDone
      split
      · exact .refl
      · exact memoryFault_moves haw hr _ _ _
    case glyphRead k => exact glyphReadDone_moves haw hr k a x
    case rowWrite k r => exact rowWriteDone_moves haw hr k r a x
    case glyphFetch e => exact glyphFetchDone_moves haw hr e a x
    case reportRecord =>
      unfold reportRecordDone
      split
      · exact Still.moves (by constructor <;> rfl)
      · exact reportWriteFault_moves haw hr _
    case reportHeader =>
      unfold reportHeaderDone
      split
      · exact .refl
      · exact reportWriteFault_moves haw hr _
  · exact .refl

theorem requestRestart_moves {s : State} (hr : s.resetN = true) : Moves s (requestRestart s) := by
  have h : Move s (beginRestart s) :=
    .aside _ (by simpa using hr) (.inr ⟨rfl, by simp [beginRestart]⟩) (by simp) (by simp) (.inl (by simp))
  unfold requestRestart
  repeat' split
  · exact .refl
  · exact .refl
  · exact h.moves
  · exact h.moves

theorem timeSetWritten_moves {s : State} (hr : s.resetN = true) (hd : s.active = true ∨ s.rebuilding = true)
    (rev : Byte) (value : Option (List Byte)) : Moves s (timeSetWritten s rev value) := by
  unfold timeSetWritten
  dsimp only
  repeat' split
  · exact .refl
  · exact Still.moves (by constructor <;> simp)
  · exact Still.moves (by constructor <;> rfl)
  · next hrb =>
    have ha : s.active = true := hd.resolve_right hrb
    unfold setTime
    refine Still.andThen ?_ (Move.time (by exact ha) (by exact hr) _).moves
    constructor <;> rfl

/-- A commit or an observed field taken (R6 to R11). -/
theorem takeItem_moves {s : State} (hr : s.resetN = true) (x : CommitItem) : Moves s (takeItem s x) := by
  unfold takeItem
  split
  · next hd =>
    cases x with
    | restart v =>
      have h0 : Still s { s with commit := { s.commit with lastRestart := v } } := by constructor <;> rfl
      simp only [restartWritten]
      split
      · exact .refl
      · exact h0.moves.trans (requestRestart_moves hr)
    | timeSet rev value =>
      refine timeSetWritten_moves hr ?_ rev value
      revert hd
      cases hp : s.part <;> simp [detects, State.active, State.rebuilding, hp]
    | revision r v => exact Still.moves (by constructor <;> simp)
    | lap i v => exact Still.moves (by constructor <;> simp)
    | consumer v => exact Still.moves (by constructor <;> rfl)
    | overflow v => exact Still.moves (by constructor <;> simp)
    | tag i k a v => exact Still.moves (by constructor <;> simp)
  · exact .refl

theorem commitsTaken_moves {s : State} (hr : s.resetN = true) (st : Status) (l : List CommitItem) :
    Moves s (commitsTaken s st l) := by
  unfold commitsTaken
  split
  · exact Moves.foldl takeItem (fun t => t.resetN = true) (fun t a ht => ⟨takeItem_moves ht a, by simpa using ht⟩) l s
      hr
  · exact .refl

theorem takeResponse_moves {s : State} (hr : s.resetN = true) (m : MemTag) (h : Holder) (st : Status)
    (d : List Byte) : Moves s (takeResponse s m h st d) := by
  have h0 : ∀ t c d, Still t (respond t c st d) := fun t c d => by constructor <;> rfl
  have h1 : ∀ t c e, Still t (setEntry t c e) := fun t c e => by constructor <;> rfl
  unfold takeResponse
  repeat' split
  · unfold returnResponse
    exact (h0 _ _ _).andThen ((commitsTaken_moves (by exact hr) _ _).trans (h1 _ _ _).moves)
  · exact .refl
  · exact commitsTaken_moves hr _ _
  · exact .refl
  · exact .refl

/-! ### Commands and steps -/

theorem settle_still (s : State) : Still s (settle s) := by constructor <;> simp

theorem acceptRequest_moves {s : State} (hr : s.resetN = true) (c : CtlTag) (b : Burst) :
    Moves s (acceptRequest s c b) := by
  have h0 : ∀ t e, Still t (enlist t c e) := fun t e => by constructor <;> rfl
  unfold acceptRequest
  dsimp only
  split
  · next p row off h =>
    refine (Move.scan ?_ hr p row).moves.trans (h0 _ _).moves
    unfold scanTarget at h
    split at h
    · split at h
      · next hc => simp at hc; exact hc.1.1
      · cases h
    · cases h
  · exact (h0 _ _).moves

theorem takeSecond_moves {s : State} (hr : s.resetN = true) : Moves s (takeSecond s) := by
  have h0 : Still s { s with clock := { s.clock with secondsDue := s.clock.secondsDue - 1 } } := by
    constructor <;> rfl
  unfold takeSecond
  dsimp only
  split
  · exact Still.moves (by constructor <;> rfl)
  · next h => exact h0.moves.trans (Move.second (by exact hr) (by simpa [State.rebuilding] using h)).moves

theorem reload_moves {s : State} (hr : s.resetN = true) (hp : s.part = .restarting) : Moves s (reload s) := by
  rcases reload_cases s with ⟨_, h⟩ | ⟨bs, _, h⟩ | ⟨_, h⟩
  · rw [h]
    exact (Move.aside _ (by simpa using hr) (.inr ⟨by simpa using hp, by simp [beginReload]⟩) (by simp) (by simp)
      (.inl (by simp))).moves
  · rw [h]
    exact (Move.reload bs hr hp).moves
  · rw [h]

theorem held_moves (s : State) : Moves s (held s) := (Move.reset).moves

/-- A rule that a command ran is a chain of moves. -/
theorem Ran.moves {s t : State} {c : Instr} (h : Ran s c t) : Moves s t := by
  have hs : ∀ u, Moves s u → Moves s (settle u) := fun u k => k.trans (settle_still u).moves
  have hf : ∀ m, Still s (freeTag s m) := fun m => by constructor <;> rfl
  cases h with
  | resetNAssert => exact held_moves s
  | resetNRelease b low => exact hs _ (Move.load b low).moves
  | lrstNAssert => exact hs _ (Still.moves (by constructor <;> rfl))
  | lrstNRelease => exact Still.moves (by constructor <;> rfl)
  | reuse c b e => exact hs _ (Still.moves (by constructor <;> rfl))
  | accept c b port => exact hs _ (acceptRequest_moves (by simp [portTakes] at port; exact port.1.1.1) c b)
  | forward c e => exact hs _ (Still.moves (by constructor <;> simp))
  | response m u st d high =>
    exact hs _ ((hf m).andThen (takeResponse_moves (by exact high) m _ st d))
  | hostTimeout c e => exact hs _ (Still.moves (by constructor <;> simp))
  | ownTimeout m u p k st high =>
    have h0 : ∀ x, Still s (setHolder s m x) := fun x => by constructor <;> rfl
    refine hs _ ?_
    unfold Machine.ownTimeout
    dsimp only
    split
    · exact (h0 _).andThen (ownDone_moves (by exact high) _ _ _)
    · exact (h0 _).moves
  | centiTick =>
    have hnow : s.clock.tick.now = s.clock.now := by
      unfold Clock.tick
      split <;> rfl
    exact hs _ (Still.moves ⟨rfl, rfl, rfl, rfl, rfl, rfl, rfl, rfl, hnow, rfl, rfl, rfl, rfl, rfl⟩)
  | lobbySecond high => exact hs _ (takeSecond_moves high)
  | phaseFire i p t rest high active batch => exact hs _ (Move.phase active high i p t rest batch).moves
  | holdExpire g p t rest high active batch => exact hs _ (Move.hold active high g p t rest batch).moves
  | noticeExpire n p t rest high active batch => exact hs _ (Move.expiry active high n p t rest batch).moves
  | gapTimeout => exact hs _ (Still.moves (by constructor <;> simp))
  | passIdleTimeout p high expired =>
    refine hs _ (Move.idle ?_ high p).moves
    unfold idleExpired at expired
    split at expired
    · simp at expired; exact expired.1
    · cases expired
  | issue c mine r p b m =>
    refine hs _ (Still.moves ?_)
    cases p <;> constructor <;> rfl
  | answer c m u p k st status d _ high =>
    refine hs _ ?_
    unfold ownResponse
    split
    · exact (hf m).andThen (ownDone_moves (by exact high) _ _ _)
    · exact (hf m).moves
  | cellTake => exact hs _ (Still.moves (by constructor <;> simp))
  | paintComplete => exact hs _ (Still.moves (by constructor <;> simp))
  | restartReload high can =>
    refine hs _ (reload_moves high ?_)
    simp [canReload] at can
    exact can.1.1

/-- Every step is a chain of moves. -/
theorem step_moves {s t : State} (h : step s = .next t) : Moves s t := by
  rcases step_next h with ⟨_, rfl⟩ | ⟨c, rest, _, rfl | hran⟩
  · refine Still.moves ?_
    unfold refclk
    split
    · have hnow : s.clock.cycle.1.now = s.clock.now := by
        unfold Clock.cycle
        split <;> rfl
      exact ⟨rfl, rfl, rfl, rfl, rfl, rfl, rfl, rfl, hnow, rfl, rfl, rfl, rfl, rfl⟩
    · constructor <;> rfl
  · exact Still.moves (by constructor <;> rfl)
  · have h0 : Still s { s with pending := rest } := by constructor <;> rfl
    exact h0.moves.trans hran.moves

/-- A law that every move keeps is kept by every step. -/
theorem step_keeps_of_moves {P : State → Prop} (k : ∀ s t, P s → Move s t → P t) {s t : State} (hs : P s)
    (h : step s = .next t) : P t := (step_moves h).keep k hs

end Sys2Proof.Machine
end

section
namespace Sys2Proof.Machine

/-! ### The laws of sellable counts and of seats through every move (R20, R28, R31, R54) -/

/-- With every showing VACANT and every count 0 the counts are right (R36). -/
theorem sellableLaw_initial {s : State} (h : s.seats = .initial) : SellableLaw s := by
  intro t
  simp [h, standing, SeatUnit.initial, standsFor, Seat.vacant]

/-- With every showing VACANT and no hold the law of seats holds, whatever the part state (R36). -/
theorem seatLaw_initial {s : State} (h : s.seats = .initial) (hh : ∀ g, s.holds.get g = none)
    (hd : TargetsOk s.due) : SeatLaw s where
  sound i := by simp [h, SeatUnit.initial, Seat.sound, Seat.vacant]
  held i := by
    have hz : heldBy s i = 0 := by
      rw [heldBy_eq, List.sum_eq_zero]
      intro x hx
      rw [List.mem_map] at hx
      obtain ⟨g, _, rfl⟩ := hx
      simp [hh g, seatsOf]
    simp [h, SeatUnit.initial, Seat.vacant, hz]
  gate i g x hx := by simp [hh g] at hx
  vacant i _ := by simp [h, SeatUnit.initial, Seat.vacant]
  targets := hd
  loads _ := hh

theorem targetsOk_empty : TargetsOk .empty := by simp [TargetsOk, DueList.empty]

/-! #### Building -/

theorem buildShowingAt_sellable {s : State} (h : SellableLaw s) (i : ShowingIx) (x : Option (List Byte)) :
    SellableLaw (buildShowingAt s i x) := by
  unfold buildShowingAt buildShowing buildShowingFault
  dsimp only
  repeat' split
  all_goals exact SellableLaw.placeSeat (h.of_seats (by simp)) _ _

/-- A build read taken keeps the sellable counts (R31, R37). -/
theorem buildRead_sellable {s : State} (h : SellableLaw s) (b : BuildItem) (x : ReadResult) :
    SellableLaw (buildRead s b x) := by
  cases b with
  | showings k => exact foldl_preserves SellableLaw _ _ (fun s j _ hs => buildShowingAt_sellable hs _ _) s h
  | journal k => exact h.of_seats (by simp [buildRead])
  | titles k => exact h.of_seats (by simp [buildRead, buildBlock_keeps State.seats])
  | layouts k => exact h.of_seats (by simp [buildRead])
  | notices k => exact h.of_seats (by simp [buildRead])
  | catalog k => exact h.of_seats (by simp [buildRead, buildBlock_keeps State.seats])
  | rotation k => exact h.of_seats (by simp [buildRead, buildBlock_keeps State.seats])

/-- The law of seats as a build keeps it: no hold is live. -/
def SeatBuilding (s : State) : Prop := SeatLaw s ∧ ∀ g, s.holds.get g = none

/-- What leaves the seat entries and the holds alone keeps the law while no hold is live. -/
theorem SeatBuilding.of_eq {s t : State} (h : SeatBuilding s) (h1 : t.seats = s.seats) (h2 : t.holds = s.holds)
    (h3 : TargetsOk t.due) : SeatBuilding t :=
  ⟨h.1.of_eq (by rw [h1]) h2 h3 (fun _ => h2 ▸ h.2), h2 ▸ h.2⟩

theorem SeatBuilding.buildShowingAt {s : State} (h : SeatBuilding s) (i : ShowingIx) (x : Option (List Byte)) :
    SeatBuilding (buildShowingAt s i x) := by
  have h1 : ∀ v, SeatBuilding (setRev s (.showing i) v) := fun v =>
    h.of_eq (by simp) (by simp) (by simpa using h.1.targetsOk)
  unfold Machine.buildShowingAt
  split
  · exact (h1 _).1.buildShowing i _ (h1 _).2
  · refine ⟨(h1 0).1.build i _ (h1 0).2 (placeSeat_entries _ _ _) ?_ rfl (fun _ => rfl) ?_ ?_, ?_⟩
    · simp [Seat.sound, Seat.vacant]
    · simpa [buildShowingFault] using h.2
    · simpa [buildShowingFault] using h.1.targetsOk
    · simpa [buildShowingFault] using h.2

/-- A build read taken keeps the law of seats, and no hold becomes live (R37, R178). -/
theorem SeatBuilding.buildRead {s : State} (h : SeatBuilding s) (b : BuildItem) (x : ReadResult) :
    SeatBuilding (buildRead s b x) := by
  have ht := h.1.targetsOk
  cases b with
  | showings k => exact foldl_preserves SeatBuilding _ _ (fun s j _ hs => hs.buildShowingAt _ _) s h
  | notices k =>
    have hb : SeatBuilding (buildBlock s 64 2 x fun t j r => buildNoticeAt t (Fin.ofNat 32 (2 * k + j)) r) :=
      foldl_preserves SeatBuilding _ _
        (fun s j _ hs => hs.of_eq (by simp) (by simp) (buildNotice_due hs.1.targetsOk _ _)) s h
    simp only [Machine.buildRead]
    unfold buildNotices
    dsimp only
    split
    · exact hb.of_eq (by simp) (by simp) (by simpa using hb.1.targetsOk)
    · exact hb
  | journal k =>
    exact h.of_eq (by simp [Machine.buildRead]) (by simp [Machine.buildRead]) (by simpa [Machine.buildRead] using ht)
  | layouts k =>
    exact h.of_eq (by simp [Machine.buildRead]) (by simp [Machine.buildRead]) (by simpa [Machine.buildRead] using ht)
  | titles k =>
    refine h.of_eq ?_ ?_ ?_
    · simp [Machine.buildRead, buildBlock_keeps State.seats]
    · simp [Machine.buildRead, buildBlock_keeps State.holds]
    · simpa [Machine.buildRead, buildBlock_keeps State.due] using ht
  | catalog k =>
    refine h.of_eq ?_ ?_ ?_
    · simp [Machine.buildRead, buildBlock_keeps State.seats]
    · simp [Machine.buildRead, buildBlock_keeps State.holds]
    · simpa [Machine.buildRead, buildBlock_keeps State.due] using ht
  | rotation k =>
    refine h.of_eq ?_ ?_ ?_
    · simp [Machine.buildRead, buildBlock_keeps State.seats]
    · simp [Machine.buildRead, buildBlock_keeps State.holds]
    · simpa [Machine.buildRead, buildBlock_keeps State.due] using ht

/-! #### Notices -/

/-- An expiry set for a notice removes its Due List entry, or inserts one (R112). -/
theorem setExpiry_due (s : State) (n : NoticeIx) (life : Nat) :
    (setExpiry s n life).due =
      if life = 0 then s.due.remove (.notice n)
      else s.due.insert s.clock.now { key := .notice n, target := none, time := after s.clock.now life } := by
  unfold setExpiry
  split <;> rfl

/-- A notice posted sets its expiry, and nothing else in the Due List (R112). -/
theorem postNotice_due (s : State) (n : NoticeIx) (f : NoticeFields) :
    (postNotice s n f).due =
      if f.lifetime = 0 then s.due.remove (.notice n)
      else s.due.insert s.clock.now { key := .notice n, target := none, time := after s.clock.now f.lifetime } := by
  unfold postNotice
  dsimp only
  have h : ∀ t : State, t.due = s.due → t.clock = s.clock → (setExpiry t n f.lifetime).due =
      if f.lifetime = 0 then s.due.remove (.notice n)
      else s.due.insert s.clock.now { key := .notice n, target := none, time := after s.clock.now f.lifetime } :=
    fun t h1 h2 => by rw [setExpiry_due, h1, h2]
  have h' := h (if f.kind = .line then activateLine (takeFields (leaveState s n) n f) n
    else tryBanner (takeFields (leaveState s n) n f) n) (by split <;> simp) (by split <;> simp)
  split
  · simpa using h'
  · simpa using h'

/-- A notice withdrawn loses its Due List entry, if it stands (R113). -/
theorem withdrawNotice_due (s : State) (n : NoticeIx) :
    (withdrawNotice s n).due =
      if (s.notices.entries.get n).state = .idle then s.due else s.due.remove (.notice n) := by
  unfold withdrawNotice
  split
  · rfl
  · simp [removeDue]

theorem handNotice_targets {s : State} (h : TargetsOk s.due) (n : NoticeIx) (bs : List Byte) :
    TargetsOk (handNotice s n bs).due := by
  unfold handNotice
  dsimp only
  split
  · simpa using h
  · split
    · rw [withdrawNotice_due]
      split
      · exact h
      · exact h.remove _
    · rw [postNotice_due]
      split
      · exact h.remove _
      · exact h.insert _ _ (by simp)

/-! #### Every move -/

/-- Every move keeps the law of sellable counts (R31). -/
theorem Move.sellable (s t : State) (h : SellableLaw s) (m : Move s t) : SellableLaw t := by
  cases m with
  | still _ k => exact h.of_seats k.seats
  | aside _ _ _ k => exact h.of_seats k
  | reset => exact sellableLaw_initial rfl
  | load => exact h.of_seats rfl
  | accept => exact h.of_seats rfl
  | reload => exact sellableLaw_initial rfl
  | built l b x =>
    refine buildRead_sellable ?_ b x
    exact h.of_seats rfl
  | running => exact h.of_seats (by simp)
  | quiet => exact h.of_seats rfl
  | second => exact h.of_seats (by simp)
  | time => exact h.of_seats (by simp)
  | showing _ _ i bs => exact handShowing_sellable h i bs
  | notice => exact h.of_seats (by simp)
  | journal _ _ r => exact applyJournal_sellable h r
  | phase => exact (SellableLaw.of_seats h (by simp [popBatch])).changeSeat _ _
  | hold =>
    unfold expireHold
    dsimp only
    split
    · exact h.of_seats rfl
    · refine SellableLaw.of_seats ?_ (raise_keeps _ _ _ _).2.2.2.2.2.2.2.2.2.1
      exact (SellableLaw.of_seats h (by simp [popBatch])).changeSeat _ _
  | expiry => exact h.of_seats (by simp [popBatch])
  | glyph => exact h.of_seats (by simp)
  | scan => exact h.of_seats (by simp)
  | idle => exact h.of_seats (by simp)

theorem popBatch_targets {s : State} (h : TargetsOk s.due) : TargetsOk (popBatch s).due :=
  h.of_subset fun e he => by
    simp only [popBatch, List.mem_append] at he ⊢
    exact he.imp_right List.mem_of_mem_tail

theorem SeatLaw.popBatch {s : State} (h : SeatLaw s) : SeatLaw (popBatch s) :=
  h.of_eq rfl rfl (popBatch_targets h.targetsOk) h.loads

/-- Every move keeps the law of seats (R20, R28, R54). -/
theorem Move.seatLaw (s t : State) (h : SeatLaw s) (m : Move s t) : SeatLaw t := by
  cases m with
  | still _ k => exact h.same k.seats k.holds k.due k.resetN k.part k.stage
  | aside _ high part seats holds due =>
    refine h.of_eq (by rw [seats]) holds ?_ ?_
    · rcases due with e | e
      · rw [e]; exact h.targets
      · rw [e]; exact targetsOk_empty
    · rcases part with e | ⟨e, e'⟩ <;> simp [State.rebuilding, *]
  | reset => exact seatLaw_initial rfl (by simp [held, State.reset]) targetsOk_empty
  | load b low => exact h.of_eq rfl rfl h.targets fun _ => h.loads (.inl low)
  | accept bs r _ loading => exact h.of_eq rfl rfl h.targets fun _ => h.loads (.inr (.inl loading))
  | reload => exact seatLaw_initial rfl (by simp [beginBuild, clearOwners]) targetsOk_empty
  | built l b x build =>
    have h0 : SeatBuilding s := ⟨h, h.loads (.inr (.inr build))⟩
    refine (SeatBuilding.buildRead ?_ b x).1
    exact h0.of_eq rfl rfl h.targetsOk
  | running build =>
    have h0 : SeatBuilding s := ⟨h, h.loads (.inr (.inr build))⟩
    refine (h0.of_eq (by simp) (by simp) ?_).1
    unfold enterRunning
    simp only [updateGap_keeps]
    exact takeWithheld_due _ _ (takePendingSet_due _ (by simpa using h.targetsOk))
  | quiet active =>
    refine h.of_eq rfl rfl h.targets fun hc => h.loads (.inl ?_)
    simpa [enterQuiet, State.rebuilding] using hc
  | second =>
    refine h.of_eq (by simp) (by simp) (secondAdvance_due _ h.targetsOk) ?_
    simp only [State.rebuilding, secondAdvance_keeps]
    exact h.loads
  | time active _ v =>
    refine h.of_eq (by simp) (by simp) (moveTime_due _ _ h.targetsOk) ?_
    simp only [State.rebuilding, moveTime_keeps]
    exact h.loads
  | showing _ _ i bs => exact h.handShowing i bs
  | notice _ _ n bs =>
    refine h.of_eq (by simp) (by simp) (handNotice_targets h.targetsOk n bs) ?_
    simp only [State.rebuilding, handNotice_keeps]
    exact h.loads
  | journal active high r => exact h.applyJournal r high active
  | phase _ _ i p t rest batch =>
    refine h.popBatch.firePhase i p (.inr (h.targets { key := .phase i, target := some p, time := t } ?_ p rfl))
    simp [batch]
  | hold => exact h.popBatch.expireHold _
  | expiry => exact h.popBatch.same (by simp) (by simp) (by simp) (by simp) (by simp) (by simp)
  | glyph => exact h.same (by simp) (by simp) (by simp) (by simp) (by simp) (by simp)
  | scan => exact h.same (by simp) (by simp) (by simp) (by simp) (by simp) (by simp)
  | idle => exact h.same (by simp) (by simp) (by simp) (by simp) (by simp) (by simp)

end Sys2Proof.Machine

open Sys2Proof.Machine in
/-- Settles O55: every move keeps the law of sellable counts and the law of seats, and every step is a chain of
moves. -/
theorem seatLawsKept : Obligations.SeatLawsKept :=
  ⟨fun _ _ h hs => step_keeps_of_moves Move.sellable h hs, fun _ _ h hs => step_keeps_of_moves Move.seatLaw h hs⟩
end

section
namespace Sys2Proof.Machine

/-! ### The part after reset -/

theorem held_seats (s : State) : (held s).seats = .initial := rfl

/-- What a VACANT entry is (R29, R36). -/
theorem seatUnit_initial_get (i : ShowingIx) : SeatUnit.initial.entries.get i = .vacant 0 := by
  simp [SeatUnit.initial]

end Sys2Proof.Machine

open Sys2Proof.Machine in
/-- Settles O4: RESET_N puts the power-on values in place, and a link reset changes the Traffic Path alone (R36). -/
theorem seatsAfterReset : Obligations.SeatsAfterReset := by
  intro s
  refine ⟨⟨held s, rfl, fun i => ?_, fun k => ?_, rfl, rfl⟩, _, rfl, ?_⟩
  · rw [held_seats, seatUnit_initial_get]
    exact ⟨rfl, rfl, rfl, rfl, rfl, rfl, rfl, rfl, rfl, rfl⟩
  · simp [held_seats, SeatUnit.initial]
  · split <;> simp

namespace Sys2Proof.Machine

theorem tagLaw_reset : TagLaw State.reset where
  own m u h := by simp [State.reset, Traffic.initial] at h
  apart m n u v _ h := by simp [State.reset, Traffic.initial] at h

theorem capacityLaw_reset : CapacityLaw State.reset := by
  constructor <;> simp [State.reset, Traffic.initial, Clock.initial, Painter.initial]

/-- No tag is reserved after reset, so no own request is live. -/
theorem liveOwns_reset (f : OwnPurpose → Bool) : liveOwns State.reset f = 0 := by
  simp [liveOwns, ownLive, State.reset, Traffic.initial]

theorem offerLaw_reset : OfferLaw State.reset where
  commit o h := by simp [State.reset, Offers.none] at h
  painter o h := by simp [State.reset, Offers.none] at h
  report o h := by simp [State.reset, Offers.none] at h
  fetches := by simp [State.reset, CommitUnit.initial]
  writeBacks := by simp [liveOwns_reset]
  tail := by simp [liveOwns_reset]
  glyphs := by simp [liveOwns_reset]
  reports := by simp [liveOwns_reset]

theorem noHold_reset (g : HoldIx) : State.reset.holds.get g = none := by simp [State.reset]

/-- After reset every cell shows nothing known and is on no line, since every layout is empty (R95, R109). -/
theorem cellLaw_reset : CellLaw State.reset where
  stale r h := by simp [isCell, State.line, State.reset, RosterUnit.initial, Layout.empty, Line.unused, Line.cells] at h
  once := by simp [State.reset, Painter.initial]
  marked r := by simp [cellMarks, cellAt, State.reset, Painter.initial, CellMarks.clear]

theorem slotLaw_reset : SlotLaw State.reset := by
  constructor <;>
    simp [State.reset, TrailerUnit.initial, Stream.empty, FrameSlot.free, passesOn, PanelScan.idle]

theorem cacheLaw_reset : CacheLaw State.reset := by
  constructor <;>
    simp [State.reset, NoticeUnit.initial, CacheEntry.empty, references, heldEntries, latchRefs, Notice.idle,
      PanelScan.idle, Fill.isHeld, Fill.code]

theorem dueLaw_reset : DueLaw State.reset where
  once := by simp [State.reset, DueList.empty]
  expected k := by
    cases k <;>
      simp [State.reset, DueList.empty, expects, SeatUnit.initial, Seat.vacant, passesGate, NoticeUnit.initial,
        Notice.idle, State.rebuilding]
  targets e h := by simp [State.reset, DueList.empty] at h
  pending e h := by simp [State.reset, DueList.empty] at h
  order := by simp [State.reset, DueList.empty]
  lifetimes n := by simp [State.reset, NoticeUnit.initial, Notice.idle]
  waits n h := by simp [State.reset, NoticeUnit.initial] at h

theorem standingLaws_reset : StandingLaws State.reset where
  fresh _ := ⟨cacheLaw_reset, dueLaw_reset, rfl, rfl, noHold_reset,
    fun i => by simp [State.reset, seatUnit_initial_get, Seat.vacant],
    fun n => by simp [State.reset, NoticeUnit.initial, Notice.idle]⟩
  build h := by simp [reading, State.rebuilding, State.reset] at h
  run h := by simp [State.active, State.reset] at h

end Sys2Proof.Machine

open Sys2Proof.Machine in
/-- Settles O51: nothing is placed, offered or expected at the power-on values. -/
theorem lawsHoldAtReset : Obligations.LawsHoldAtReset :=
  ⟨tagLaw_reset, capacityLaw_reset, offerLaw_reset, sellableLaw_initial rfl,
    seatLaw_initial rfl noHold_reset targetsOk_empty, cellLaw_reset, slotLaw_reset, cacheLaw_reset, dueLaw_reset,
    standingLaws_reset⟩
end

section
namespace Sys2Proof.Machine

/-! ### The lists that the machine keeps in order -/

section
variable {α : Type} {le : α → α → Bool}

/-- What `insertBy` builds is the list with one more member. -/
theorem insertBy_perm (le : α → α → Bool) (a : α) (l : List α) : (insertBy le a l).Perm (a :: l) := by
  induction l with
  | nil => exact .refl _
  | cons b l ih =>
    simp only [insertBy]
    split
    · exact (ih.cons b).trans (.swap a b l)
    · exact .refl _

theorem nodup_insertBy (le : α → α → Bool) {a : α} {l : List α} (h : l.Nodup) (ha : a ∉ l) : (insertBy le a l).Nodup :=
  (insertBy_perm le a l).nodup_iff.mpr (List.nodup_cons.mpr ⟨ha, h⟩)

/-- Sorting permutes. -/
theorem sortBy_perm (le : α → α → Bool) (l : List α) : (sortBy le l).Perm l := by
  have key : ∀ (l acc : List α), (l.foldl (fun acc a => insertBy le a acc) acc).Perm (l ++ acc) := by
    intro l
    induction l with
    | nil => exact fun acc => .refl acc
    | cons a l ih =>
      intro acc
      exact (ih _).trans (((insertBy_perm le a acc).append_left l).trans List.perm_middle)
  simpa [sortBy] using key l []

theorem nodup_sortBy (le : α → α → Bool) {l : List α} (h : l.Nodup) : (sortBy le l).Nodup :=
  (sortBy_perm le l).nodup_iff.mpr h

/-- An insertion by a total and transitive order keeps a list in order. -/
theorem pairwise_insertBy (total : ∀ x y, le x y = true ∨ le y x = true)
    (trans : ∀ x y z, le x y = true → le y z = true → le x z = true) (a : α) {l : List α}
    (h : l.Pairwise fun x y => le x y = true) : (insertBy le a l).Pairwise fun x y => le x y = true := by
  induction l with
  | nil => simp [insertBy]
  | cons b l ih =>
    obtain ⟨hb, hl⟩ := List.pairwise_cons.mp h
    simp only [insertBy]
    split
    · next hba =>
      refine List.pairwise_cons.mpr ⟨fun x hx => ?_, ih hl⟩
      rcases (mem_insertBy _ _ _ _).mp hx with rfl | hx
      · exact hba
      · exact hb x hx
    · next hba =>
      have hab : le a b = true := (total a b).resolve_right hba
      refine List.pairwise_cons.mpr ⟨fun x hx => ?_, h⟩
      rcases List.mem_cons.mp hx with rfl | hx
      · exact hab
      · exact trans a b x hab (hb x hx)

/-- Sorting by a total and transitive order puts a list in order. -/
theorem pairwise_sortBy (total : ∀ x y, le x y = true ∨ le y x = true)
    (trans : ∀ x y z, le x y = true → le y z = true → le x z = true) (l : List α) :
    (sortBy le l).Pairwise fun x y => le x y = true :=
  foldl_preserves (List.Pairwise fun x y => le x y = true) _ l (fun _ a _ h => pairwise_insertBy total trans a h) []
    .nil

end

end Sys2Proof.Machine
end

section
namespace Sys2Proof.Machine

/-! ### The glyph cache: counts, codes and admission (R116 to R118) -/

/-! #### Lists and tables -/

theorem distinct_aux {α : Type} [DecidableEq α] (l acc : List α) (h : acc.Nodup) :
    (l.foldl (fun acc a => if a ∈ acc then acc else acc ++ [a]) acc).Nodup ∧
      ∀ a, a ∈ l.foldl (fun acc a => if a ∈ acc then acc else acc ++ [a]) acc ↔ a ∈ acc ∨ a ∈ l := by
  induction l generalizing acc with
  | nil => simp [h]
  | cons b l ih =>
    rw [List.foldl_cons]
    split
    · next hb =>
      obtain ⟨h1, h2⟩ := ih acc h
      refine ⟨h1, fun a => ?_⟩
      rw [h2, List.mem_cons]
      constructor
      · tauto
      · rintro (k | rfl | k) <;> tauto
    · next hb =>
      have hn : (acc ++ [b]).Nodup := by
        rw [List.nodup_append]
        simp only [List.nodup_singleton, List.mem_singleton, true_and]
        exact ⟨h, fun x hx y hy => by rw [hy]; exact fun e => hb (e ▸ hx)⟩
      obtain ⟨h1, h2⟩ := ih _ hn
      refine ⟨h1, fun a => ?_⟩
      rw [h2, List.mem_append, List.mem_singleton, List.mem_cons]
      tauto

/-- The distinct entries of a list are each there once. -/
theorem nodup_distinct {α : Type} [DecidableEq α] (l : List α) : (distinct l).Nodup :=
  (distinct_aux l [] List.nodup_nil).1

@[simp] theorem mem_distinct {α : Type} [DecidableEq α] (l : List α) (a : α) : a ∈ distinct l ↔ a ∈ l := by
  have := (distinct_aux l [] List.nodup_nil).2 a
  simpa [distinct] using this

/-- A place after `f` has been applied at each of a list of different places. -/
theorem get_foldl_modAt {n : Nat} {α : Type} (f : α → α) (es : List (Fin n)) (h : es.Nodup) (v : Vector α n)
    (e : Fin n) : (es.foldl (fun c e => modAt c e f) v).get e = if e ∈ es then f (v.get e) else v.get e := by
  induction es generalizing v with
  | nil => simp
  | cons a es ih =>
    rw [List.nodup_cons] at h
    rw [List.foldl_cons, ih h.2]
    by_cases ha : e = a
    · subst ha; simp [h.1]
    · simp [ha]

theorem get_dropRefs {cache : Vector CacheEntry 128} {es : List CacheIx} (h : es.Nodup) (e : CacheIx) :
    (dropRefs cache es).get e = if e ∈ es then (cache.get e).drop else cache.get e :=
  get_foldl_modAt _ es h cache e

theorem get_holdRefs {cache : Vector CacheEntry 128} {es : List CacheIx} (h : es.Nodup) (e : CacheIx) :
    (holdRefs cache es).get e = if e ∈ es then (cache.get e).hold else cache.get e :=
  get_foldl_modAt _ es h cache e

@[simp] theorem CacheEntry.drop_refs (x : CacheEntry) : x.drop.refs = x.refs - 1 := by
  unfold CacheEntry.drop
  split
  · next h => simp [CacheEntry.empty, h.1]
  · rfl

/-- An entry that keeps a count keeps what it holds (R116). -/
theorem CacheEntry.drop_fill_of_pos {x : CacheEntry} (h : x.refs - 1 ≠ 0) : x.drop.fill = x.fill := by
  unfold CacheEntry.drop
  rw [if_neg (fun k => h k.1)]

/-- A lowered entry holds what it held, or is EMPTY. -/
theorem CacheEntry.drop_fill (x : CacheEntry) : x.drop.fill = x.fill ∨ x.drop.fill = .empty := by
  unfold CacheEntry.drop
  split
  · exact .inr rfl
  · exact .inl rfl

/-- A HELD entry whose count falls to 0 becomes EMPTY (R116). -/
theorem CacheEntry.drop_held {x : CacheEntry} (h : x.drop.fill.isHeld = true) : x.refs - 1 ≠ 0 := by
  intro h0
  unfold CacheEntry.drop at h
  split at h
  · cases h
  · next k => exact k ⟨h0, h⟩

theorem Fill.isHeld_code {x : Fill} (h : x.isHeld = true) : ∃ c, x.code = some c := by
  cases x <;> simp_all [Fill.isHeld, Fill.code]

theorem Fill.code_eq_none {x : Fill} : x.code = none ↔ x = .empty := by
  cases x <;> simp [Fill.code]

/-! #### References -/

/-- A notice holds references: its banner is loading or ready. -/
def Notice.refers (x : Notice) : Prop := x.state = .bannerLoading ∨ x.state = .bannerReady

theorem heldEntries_of_refers {x : Notice} (h : x.refers) : heldEntries x = x.entries.map (·.2) := if_pos h

theorem heldEntries_of_not {x : Notice} (h : ¬x.refers) : heldEntries x = [] := if_neg h

/-- The references as one notice changes. -/
theorem references_notice {s t : State} (n : NoticeIx)
    (hn : ∀ m, m ≠ n → t.notices.entries.get m = s.notices.entries.get m)
    (hp : ∀ p, (t.scan.get p).banner = (s.scan.get p).banner) (e : CacheIx) :
    references t e + (if e ∈ heldEntries (s.notices.entries.get n) then 1 else 0) =
      references s e + (if e ∈ heldEntries (t.notices.entries.get n) then 1 else 0) := by
  have h := countP_change (fun m => decide (e ∈ heldEntries (t.notices.entries.get m)))
    (fun m => decide (e ∈ heldEntries (s.notices.entries.get m))) n (fun m hm => by rw [hn m hm])
    (List.finRange 32) (List.nodup_finRange 32) (List.mem_finRange n)
  simp only [decide_eq_true_eq] at h
  simp only [references, hp]
  omega

/-- The references as one panel's latch changes. -/
theorem references_latch {s t : State} (p : PanelIx) (hn : t.notices.entries = s.notices.entries)
    (hp : ∀ q, q ≠ p → (t.scan.get q).banner = (s.scan.get q).banner) (e : CacheIx) :
    references t e + (if e ∈ latchRefs (s.scan.get p).banner then 1 else 0) =
      references s e + (if e ∈ latchRefs (t.scan.get p).banner then 1 else 0) := by
  have h := countP_change (fun q => decide (e ∈ latchRefs (t.scan.get q).banner))
    (fun q => decide (e ∈ latchRefs (s.scan.get q).banner)) p (fun q hq => by rw [hp q hq])
    (List.finRange 24) (List.nodup_finRange 24) (List.mem_finRange p)
  simp only [decide_eq_true_eq] at h
  simp only [references, hn]
  omega

theorem references_congr {s t : State} (hn : t.notices.entries = s.notices.entries)
    (hp : ∀ q, (t.scan.get q).banner = (s.scan.get q).banner) (e : CacheIx) : references t e = references s e := by
  simp only [references, hn, hp]

theorem references_pos_of_notice {s : State} {n : NoticeIx} {e : CacheIx}
    (h : e ∈ heldEntries (s.notices.entries.get n)) : 0 < references s e := by
  have : 0 < (List.finRange 32).countP fun m => decide (e ∈ heldEntries (s.notices.entries.get m)) :=
    List.countP_pos_iff.mpr ⟨n, List.mem_finRange n, by simpa using h⟩
  unfold references
  omega

theorem references_pos_of_latch {s : State} {p : PanelIx} {e : CacheIx} (h : e ∈ latchRefs (s.scan.get p).banner) :
    0 < references s e := by
  have : 0 < (List.finRange 24).countP fun q => decide (e ∈ latchRefs (s.scan.get q).banner) :=
    List.countP_pos_iff.mpr ⟨p, List.mem_finRange p, by simpa using h⟩
  unfold references
  omega

theorem nodup_latchRefs (b : Option BannerLatch) : (latchRefs b).Nodup := by
  cases b with
  | none => exact List.nodup_nil
  | some b => exact nodup_distinct _

/-- A notice's entries are different, as their codes are. -/
theorem CacheLaw.nodup_heldEntries {s : State} (h : CacheLaw s) (n : NoticeIx) :
    (heldEntries (s.notices.entries.get n)).Nodup := by
  by_cases hr : (s.notices.entries.get n).refers
  · rw [heldEntries_of_refers hr]
    obtain ⟨h1, h2⟩ := h.banners n hr
    have hk : (s.notices.entries.get n).entries.map (fun x => some x.1) =
        ((s.notices.entries.get n).entries.map (·.2)).map fun e => (s.notices.cache.get e).fill.code := by
      rw [List.map_map]
      exact List.map_congr_left fun x hx => (h2 x hx).symm
    have hd : ((s.notices.entries.get n).entries.map (fun x => some x.1)).Nodup := by
      have : (codeSet (s.notices.entries.get n).fields).Nodup := nodup_distinct _
      rw [← h1] at this
      have := this.map (Option.some_injective _)
      rwa [List.map_map] at this
    rw [hk] at hd
    exact hd.of_map _
  · rw [heldEntries_of_not hr]
    exact List.nodup_nil

/-! #### What keeps the law -/

/-- The wait list is that of the waiting banners (R118). -/
def WaitsOk (u : NoticeUnit) : Prop :=
  u.waitList.Nodup ∧ ∀ n, n ∈ u.waitList ↔ (u.entries.get n).state = .bannerWaiting

/-- The law reads the notices, the cache, the wait list and the banner parts of the latches. -/
theorem CacheLaw.of_eq {s t : State} (h : CacheLaw s) (h1 : t.notices.entries = s.notices.entries)
    (h2 : t.notices.waitList = s.notices.waitList) (h3 : t.notices.cache = s.notices.cache)
    (h4 : ∀ p, (t.scan.get p).banner = (s.scan.get p).banner) : CacheLaw t where
  counts e := by rw [h3, references_congr h1 h4]; exact h.counts e
  held e := by rw [h3]; exact h.held e
  empty e := by rw [h3]; exact h.empty e
  codes e f c := by rw [h3]; exact h.codes e f c
  banners n := by rw [h1, h3]; exact h.banners n
  ready n := by rw [h1, h3]; exact h.ready n
  latched p e := by rw [h3, h4]; exact h.latched p e
  waits := by rw [h1, h2]; exact h.waits

/-- A notice that holds no references changes to one that holds none. -/
theorem CacheLaw.renotice {s t : State} (h : CacheLaw s) (n : NoticeIx)
    (hne : ∀ m, m ≠ n → t.notices.entries.get m = s.notices.entries.get m)
    (hs : ¬(s.notices.entries.get n).refers) (ht : ¬(t.notices.entries.get n).refers)
    (h3 : t.notices.cache = s.notices.cache) (h4 : t.scan = s.scan) (hw : WaitsOk t.notices) : CacheLaw t := by
  have hr : ∀ e, references t e = references s e := fun e => by
    have := references_notice n hne (fun p => by rw [h4]) e
    rw [heldEntries_of_not hs, heldEntries_of_not ht] at this
    simpa using this
  have hk : ∀ m, (t.notices.entries.get m).refers → t.notices.entries.get m = s.notices.entries.get m := by
    intro m hm
    by_cases e : m = n
    · rw [e] at hm; exact absurd hm ht
    · exact hne m e
  exact {
    counts := fun e => by rw [h3, hr]; exact h.counts e
    held := fun e => by rw [h3]; exact h.held e
    empty := fun e => by rw [h3]; exact h.empty e
    codes := fun e f c => by rw [h3]; exact h.codes e f c
    banners := fun m hm => by
      rw [h3, hk m hm]
      exact h.banners m (hk m hm ▸ hm)
    ready := fun m => by
      refine ⟨fun hm => ?_, fun hm => ?_⟩
      · have e := hk m (.inr hm)
        rw [h3, e]
        exact (h.ready m).1 (e ▸ hm)
      · have e := hk m (.inl hm)
        rw [h3, e]
        exact (h.ready m).2 (e ▸ hm)
    latched := fun p e => by rw [h3, h4]; exact h.latched p e
    waits := hw }

/-- The counts of some entries lowered by one each, as their references go (R115, R128). -/
theorem CacheLaw.dropped {s t : State} (h : CacheLaw s) (es : List CacheIx) (hn : es.Nodup)
    (hc : t.notices.cache = dropRefs s.notices.cache es)
    (hr : ∀ e, references t e + (if e ∈ es then 1 else 0) = references s e)
    (he : ∀ n, (t.notices.entries.get n).refers → t.notices.entries.get n = s.notices.entries.get n)
    (hl : ∀ p, (t.scan.get p).banner = (s.scan.get p).banner ∨ (t.scan.get p).banner = none)
    (hw : WaitsOk t.notices) : CacheLaw t := by
  have hg : ∀ e, t.notices.cache.get e =
      if e ∈ es then (s.notices.cache.get e).drop else s.notices.cache.get e := fun e => by rw [hc, get_dropRefs hn]
  have hcount : ∀ e, (t.notices.cache.get e).refs = references t e := by
    intro e
    have h1 := h.counts e
    have h2 := hr e
    rw [hg e]
    split
    · next k => rw [if_pos k] at h2; rw [CacheEntry.drop_refs]; omega
    · next k => rw [if_neg k] at h2; omega
  have hkeep : ∀ e, 0 < references t e → (t.notices.cache.get e).fill = (s.notices.cache.get e).fill := by
    intro e hpos
    have h1 := h.counts e
    have h2 := hr e
    rw [hg e]
    split
    · next k => rw [if_pos k] at h2; exact CacheEntry.drop_fill_of_pos (by omega)
    · rfl
  have hfill : ∀ e, (t.notices.cache.get e).fill = (s.notices.cache.get e).fill ∨
      (t.notices.cache.get e).fill = .empty := by
    intro e
    rw [hg e]
    split
    · exact CacheEntry.drop_fill _
    · exact .inl rfl
  have hcode : ∀ e c, (t.notices.cache.get e).fill.code = some c → (s.notices.cache.get e).fill.code = some c := by
    intro e c k
    rcases hfill e with q | q
    · rw [← q]; exact k
    · rw [q] at k; cases k
  have hentry : ∀ n, (t.notices.entries.get n).refers → ∀ x ∈ (t.notices.entries.get n).entries,
      (t.notices.cache.get x.2).fill = (s.notices.cache.get x.2).fill := by
    intro n k x hx
    refine hkeep x.2 (references_pos_of_notice (n := n) ?_)
    rw [heldEntries_of_refers k]
    exact List.mem_map.mpr ⟨x, hx, rfl⟩
  exact {
    counts := hcount
    held := by
      intro e k
      have h1 := h.counts e
      rw [hg e] at k ⊢
      split at k
      · next q => rw [if_pos q, CacheEntry.drop_refs]; have := CacheEntry.drop_held k; omega
      · next q => rw [if_neg q]; exact h.held e k
    empty := by
      intro e k
      rw [hcount e]
      by_contra hne
      have hpos : 0 < references t e := by omega
      have h1 := h.empty e (by rw [← hkeep e hpos]; exact k)
      have h2 := h.counts e
      have h3 := hr e
      omega
    codes := fun e f c k q => h.codes e f c (hcode e c k) (hcode f c q)
    banners := by
      intro n k
      have heq := he n k
      obtain ⟨h1, h2⟩ := h.banners n (heq ▸ k)
      refine ⟨by rw [heq]; exact h1, fun x hx => ?_⟩
      rw [hentry n k x hx]
      exact h2 x (heq ▸ hx)
    ready := by
      intro n
      refine ⟨fun k x hx => ?_, fun k => ?_⟩
      · rw [hentry n (.inr k) x hx]
        have heq := he n (.inr k)
        exact (h.ready n).1 (heq ▸ k) x (heq ▸ hx)
      · have heq := he n (.inl k)
        obtain ⟨x, hx, h1⟩ := (h.ready n).2 (heq ▸ k)
        have hx' : x ∈ (t.notices.entries.get n).entries := heq.symm ▸ hx
        exact ⟨x, hx', by rw [hentry n (.inl k) x hx']; exact h1⟩
    latched := by
      intro p e k
      rw [hkeep e (references_pos_of_latch k)]
      rcases hl p with q | q
      · exact h.latched p e (q ▸ k)
      · rw [q] at k; cases k
    waits := hw }

/-- The counts of some HELD entries raised by one each, as a latch takes references on them (R127). -/
theorem CacheLaw.raised {s t : State} (h : CacheLaw s) (es : List CacheIx) (hn : es.Nodup)
    (hc : t.notices.cache = holdRefs s.notices.cache es)
    (hr : ∀ e, references t e = references s e + if e ∈ es then 1 else 0)
    (he : t.notices.entries = s.notices.entries) (hwl : t.notices.waitList = s.notices.waitList)
    (hes : ∀ e ∈ es, (s.notices.cache.get e).fill.isHeld = true)
    (hl : ∀ p, (t.scan.get p).banner = (s.scan.get p).banner ∨ latchRefs (t.scan.get p).banner = es) :
    CacheLaw t := by
  have hfill : ∀ e, (t.notices.cache.get e).fill = (s.notices.cache.get e).fill := by
    intro e
    rw [hc, get_holdRefs hn]
    split <;> rfl
  have hrefs : ∀ e, (t.notices.cache.get e).refs = (s.notices.cache.get e).refs + if e ∈ es then 1 else 0 := by
    intro e
    rw [hc, get_holdRefs hn]
    split <;> rfl
  exact {
    counts := fun e => by rw [hrefs, hr, h.counts]
    held := fun e k => by rw [hfill] at k; rw [hrefs]; have := h.held e k; omega
    empty := fun e k => by
      rw [hfill] at k
      have hne : e ∉ es := fun q => by have := hes e q; rw [k] at this; cases this
      rw [hrefs, if_neg hne]
      exact h.empty e k
    codes := fun e f c => by rw [hfill, hfill]; exact h.codes e f c
    banners := fun n => by simp only [he, hfill]; exact h.banners n
    ready := fun n => by simp only [he, hfill]; exact h.ready n
    latched := fun p e k => by
      rw [hfill]
      rcases hl p with q | q
      · exact h.latched p e (q ▸ k)
      · exact hes e (q ▸ k)
    waits := by rw [he, hwl]; exact h.waits }

end Sys2Proof.Machine
end

section
namespace Sys2Proof.Machine

/-! #### Admission (R117) -/

/-- No two entries hold one code (R116). -/
def CodesOk (v : Vector CacheEntry 128) : Prop :=
  ∀ e f c, (v.get e).fill.code = some c → (v.get f).fill.code = some c → e = f

theorem cacheFind_some {v : Vector CacheEntry 128} {c : Byte} {e : CacheIx} (h : cacheFind v c = some e) :
    (v.get e).fill.code = some c := by
  have := List.find?_some h
  simpa using this

theorem cacheFind_isNone {v : Vector CacheEntry 128} {c : Byte} :
    (cacheFind v c).isNone = true ↔ ∀ e, (v.get e).fill.code ≠ some c := by
  simp [cacheFind]

theorem cacheFind_eq {v : Vector CacheEntry 128} (hv : CodesOk v) {c : Byte} {e : CacheIx}
    (h : (v.get e).fill.code = some c) : cacheFind v c = some e := by
  cases hf : cacheFind v c with
  | none => exact absurd h (cacheFind_isNone.mp (by simp [hf]) e)
  | some f => rw [hv f e c (cacheFind_some hf) h]

theorem mem_emptyEntries {v : Vector CacheEntry 128} {e : CacheIx} :
    e ∈ emptyEntries v ↔ (v.get e).fill = .empty := by
  simp [emptyEntries]

theorem length_emptyEntries (v : Vector CacheEntry 128) :
    (emptyEntries v).length = (List.finRange 128).countP fun e => (v.get e).fill == .empty := by
  rw [emptyEntries, List.countP_eq_length_filter]

/-- The codes of a list that no entry holds. -/
def missingOf (v : Vector CacheEntry 128) (cs : List Byte) : List Byte := cs.filter fun c => (cacheFind v c).isNone

/-- One code has taken its entry: the one that held the code, or an EMPTY one when none did (R117 steps 1 and 2). -/
structure TookCode (v w : Vector CacheEntry 128) (c : Byte) (e : CacheIx) : Prop where
  code : (w.get e).fill.code = some c
  refs : (w.get e).refs = (v.get e).refs + 1
  fill : (w.get e).fill = (v.get e).fill ∨
    (v.get e).fill = .empty ∧ (w.get e).fill = .filling c ∧ ∀ f, (v.get f).fill.code ≠ some c
  others : ∀ f, f ≠ e → w.get f = v.get f

theorem takeCode_spec (u : NoticeUnit) (c : Byte) (h0 : ∀ e, (u.cache.get e).fill = .empty → (u.cache.get e).refs = 0)
    (room : 0 < (missingOf u.cache [c]).length → emptyEntries u.cache ≠ []) :
    ∃ e, TookCode u.cache (takeCode u c).cache c e := by
  unfold takeCode
  split
  · next e hf =>
    have hc := cacheFind_some hf
    exact ⟨e, by simpa [CacheEntry.hold] using hc, by simp [CacheEntry.hold], .inl (by simp [CacheEntry.hold]),
      fun f hf => by simp [hf]⟩
  · next hf =>
    have hn : (cacheFind u.cache c).isNone = true := by simp [hf]
    split
    · next e he =>
      have hem : (u.cache.get e).fill = .empty := mem_emptyEntries.mp (List.mem_of_mem_head? he)
      exact ⟨e, by simp [Fill.code], by simp [h0 e hem], .inr ⟨hem, by simp, cacheFind_isNone.mp hn⟩,
        fun f hf => by simp [hf]⟩
    · next he =>
      exact absurd (List.head?_eq_none_iff.mp he) (room (by simp [missingOf, hn]))

@[simp] theorem takeCode_entries (u : NoticeUnit) (c : Byte) : (takeCode u c).entries = u.entries := by
  unfold takeCode
  (repeat' split) <;> rfl

@[simp] theorem takeCode_waitList (u : NoticeUnit) (c : Byte) : (takeCode u c).waitList = u.waitList := by
  unfold takeCode
  (repeat' split) <;> rfl

theorem TookCode.codesOk {v w : Vector CacheEntry 128} {c : Byte} {e : CacheIx} (h : TookCode v w c e)
    (hv : CodesOk v) : CodesOk w := by
  have key : ∀ f d, (w.get f).fill.code = some d → (f = e ∧ d = c) ∨ (f ≠ e ∧ (v.get f).fill.code = some d) := by
    intro f d k
    by_cases hf : f = e
    · subst hf
      rw [h.code] at k
      cases k
      exact .inl ⟨rfl, rfl⟩
    · rw [h.others f hf] at k
      exact .inr ⟨hf, k⟩
  have hother : ∀ f, f ≠ e → (v.get f).fill.code ≠ some c := by
    intro f hf k
    rcases h.fill with q | ⟨_, _, q⟩
    · exact hf (hv f e c k (by rw [← q]; exact h.code))
    · exact q f k
  intro f g d kf kg
  rcases key f d kf with ⟨rfl, rfl⟩ | ⟨hf, k1⟩ <;> rcases key g d kg with ⟨hg', hd'⟩ | ⟨hg, k2⟩
  · exact hg'.symm
  · exact absurd k2 (hother g hg)
  · subst hd'; exact absurd k1 (hother f hf)
  · exact hv f g d k1 k2

/-- An entry that is not EMPTY keeps what it holds. -/
theorem TookCode.keeps {v w : Vector CacheEntry 128} {c : Byte} {e : CacheIx} (h : TookCode v w c e) {f : CacheIx}
    (hf : (v.get f).fill ≠ .empty) : (w.get f).fill = (v.get f).fill := by
  by_cases hfe : f = e
  · subst hfe
    rcases h.fill with q | ⟨q, _⟩
    · exact q
    · exact absurd q hf
  · rw [h.others f hfe]

/-- An EMPTY entry stays EMPTY, or is FILLING for the code. -/
theorem TookCode.empties {v w : Vector CacheEntry 128} {c : Byte} {e : CacheIx} (h : TookCode v w c e) {f : CacheIx}
    (hf : (v.get f).fill = .empty) : (w.get f).fill = .empty ∨ (w.get f).fill = .filling c := by
  by_cases hfe : f = e
  · subst hfe
    rcases h.fill with q | ⟨_, q, _⟩
    · exact .inl (q.trans hf)
    · exact .inr q
  · rw [h.others f hfe]; exact .inl hf

theorem TookCode.empty_refs {v w : Vector CacheEntry 128} {c : Byte} {e : CacheIx} (h : TookCode v w c e)
    (h0 : ∀ f, (v.get f).fill = .empty → (v.get f).refs = 0) (f : CacheIx) (hf : (w.get f).fill = .empty) :
    (w.get f).refs = 0 := by
  by_cases hfe : f = e
  · subst hfe
    have := h.code
    rw [hf] at this
    cases this
  · rw [h.others f hfe] at hf ⊢; exact h0 f hf

/-- A code other than the one taken is held exactly when it was. -/
theorem TookCode.missing_iff {v w : Vector CacheEntry 128} {c d : Byte} {e : CacheIx} (h : TookCode v w c e)
    (hd : d ≠ c) : (cacheFind w d).isNone = (cacheFind v d).isNone := by
  rw [Bool.eq_iff_iff, cacheFind_isNone, cacheFind_isNone]
  refine forall_congr' fun f => ?_
  by_cases hfe : f = e
  · subst hfe
    rcases h.fill with q | ⟨q, q', _⟩
    · rw [q]
    · rw [q, q']
      simp [Fill.code, Ne.symm hd]
  · rw [h.others f hfe]

/-- While there is room for a list of codes, there is room for the rest of it once the first has taken its entry. -/
theorem TookCode.room {v w : Vector CacheEntry 128} {c : Byte} {cs : List Byte} {e : CacheIx} (h : TookCode v w c e)
    (hc : c ∉ cs) (room : (missingOf v (c :: cs)).length ≤ (emptyEntries v).length) :
    (missingOf w cs).length ≤ (emptyEntries w).length := by
  have hm : missingOf w cs = missingOf v cs :=
    List.filter_congr fun d hd => h.missing_iff (fun k => hc (k ▸ hd))
  have hcount := countP_change (fun f => (w.get f).fill == .empty) (fun f => (v.get f).fill == .empty) e
    (fun f hf => by rw [h.others f hf]) (List.finRange 128) (List.nodup_finRange 128) (List.mem_finRange e)
  rw [← length_emptyEntries, ← length_emptyEntries] at hcount
  rw [hm]
  have hwe : ((w.get e).fill == .empty) = false := by
    have := h.code
    cases hw : (w.get e).fill <;> simp_all [Fill.code]
  simp only [hwe] at hcount
  rcases h.fill with q | ⟨q, _, q'⟩
  · have hve : ((v.get e).fill == .empty) = false := by rw [← q]; exact hwe
    simp only [hve] at hcount
    have hle : (missingOf v cs).length ≤ (missingOf v (c :: cs)).length :=
      (List.Sublist.filter _ (List.sublist_cons_self c cs)).length_le
    simp at hcount
    omega
  · have hve : ((v.get e).fill == .empty) = true := by rw [q]; rfl
    simp only [hve] at hcount
    have hcm : (cacheFind v c).isNone = true := cacheFind_isNone.mpr q'
    have hlen : (missingOf v (c :: cs)).length = (missingOf v cs).length + 1 := by simp [missingOf, hcm]
    simp at hcount
    omega

/-- A list of codes has taken its entries. -/
structure TookCodes (v w : Vector CacheEntry 128) (cs : List Byte) : Prop where
  codes : CodesOk w
  keeps : ∀ e, (v.get e).fill ≠ .empty → (w.get e).fill = (v.get e).fill
  empties : ∀ e, (v.get e).fill = .empty → (w.get e).fill = .empty ∨ ∃ c, (w.get e).fill = .filling c
  refs : ∀ e, (w.get e).refs =
    (v.get e).refs + if cs.any (fun c => (w.get e).fill.code == some c) = true then 1 else 0
  found : ∀ c ∈ cs, ∃ e, (w.get e).fill.code = some c

theorem TookCode.andThen {v w x : Vector CacheEntry 128} {c : Byte} {cs : List Byte} {e : CacheIx}
    (h : TookCode v w c e) (hc : c ∉ cs) (k : TookCodes w x cs) : TookCodes v x (c :: cs) := by
  have hxe : (x.get e).fill.code = some c := by
    have hne : (w.get e).fill ≠ .empty := fun q => by have := h.code; rw [q] at this; cases this
    rw [k.keeps e hne]; exact h.code
  exact {
    codes := k.codes
    keeps := fun f hf => by
      have hw := h.keeps hf
      rw [k.keeps f (by rw [hw]; exact hf), hw]
    empties := fun f hf => by
      rcases h.empties hf with q | q
      · exact k.empties f q
      · exact .inr ⟨c, by rw [k.keeps f (by rw [q]; exact nofun), q]⟩
    refs := fun f => by
      rw [k.refs f, List.any_cons]
      by_cases hfe : f = e
      · subst hfe
        have hno : cs.any (fun c => (x.get f).fill.code == some c) = false := by
          rw [List.any_eq_false]
          intro d hd
          rw [hxe]
          simp only [beq_iff_eq, Option.some.injEq]
          exact fun q => hc (q ▸ hd)
        rw [hno, h.refs]
        simp [hxe]
      · have hno : ((x.get f).fill.code == some c) = false := by
          simp only [beq_eq_false_iff_ne]
          exact fun q => hfe (k.codes f e c q hxe)
        rw [h.others f hfe, hno, Bool.false_or]
    found := fun d hd => by
      rcases List.mem_cons.mp hd with rfl | hd
      · exact ⟨e, hxe⟩
      · exact k.found d hd }

/-- Taking entries for codes changes no notice (R117). -/
@[simp] theorem takeCodes_entries (cs : List Byte) (u : NoticeUnit) : (cs.foldl takeCode u).entries = u.entries :=
  foldl_keeps NoticeUnit.entries _ takeCode_entries cs u

@[simp] theorem takeCodes_waitList (cs : List Byte) (u : NoticeUnit) : (cs.foldl takeCode u).waitList = u.waitList :=
  foldl_keeps NoticeUnit.waitList _ takeCode_waitList cs u

/-- The codes of a banner that fits all take their entries (R117). -/
theorem takeCodes_spec (cs : List Byte) (hn : cs.Nodup) (u : NoticeUnit) (hu : CodesOk u.cache)
    (h0 : ∀ e, (u.cache.get e).fill = .empty → (u.cache.get e).refs = 0)
    (room : (missingOf u.cache cs).length ≤ (emptyEntries u.cache).length) :
    TookCodes u.cache (cs.foldl takeCode u).cache cs := by
  induction cs generalizing u with
  | nil => exact ⟨hu, fun _ _ => rfl, fun _ h => .inl h, fun e => by simp, nofun⟩
  | cons c cs ih =>
    rw [List.nodup_cons] at hn
    have hroom : 0 < (missingOf u.cache [c]).length → emptyEntries u.cache ≠ [] := by
      intro hp hnil
      have hle : (missingOf u.cache [c]).length ≤ (missingOf u.cache (c :: cs)).length :=
        (List.Sublist.filter _ (by simp)).length_le
      rw [hnil, List.length_nil] at room
      omega
    obtain ⟨e, he⟩ := takeCode_spec u c h0 hroom
    exact he.andThen hn.1 (ih hn.2 (takeCode u c) (he.codesOk hu) (he.empty_refs h0) (he.room hn.1 room))

/-- The entries of codes that are all found, in the order of the codes. -/
theorem codeEntries_codes {v : Vector CacheEntry 128} {cs : List Byte}
    (h : ∀ c ∈ cs, ∃ e, (v.get e).fill.code = some c) : (codeEntries v cs).map (·.1) = cs := by
  induction cs with
  | nil => rfl
  | cons c cs ih =>
    have hc : ∃ f, cacheFind v c = some f := by
      obtain ⟨e, he⟩ := h c List.mem_cons_self
      cases hf : cacheFind v c with
      | none => exact absurd he (cacheFind_isNone.mp (by simp [hf]) e)
      | some f => exact ⟨f, rfl⟩
    obtain ⟨f, hf⟩ := hc
    have := ih fun d hd => h d (List.mem_cons_of_mem _ hd)
    simp only [codeEntries] at this ⊢
    simp [hf, this]

theorem mem_codeEntries {v : Vector CacheEntry 128} {cs : List Byte} {x : Byte × CacheIx} :
    x ∈ codeEntries v cs ↔ x.1 ∈ cs ∧ cacheFind v x.1 = some x.2 := by
  obtain ⟨c, e⟩ := x
  simp only [codeEntries, List.mem_filterMap, Option.map_eq_some_iff, Prod.mk.injEq]
  constructor
  · rintro ⟨d, hd, f, hf, rfl, rfl⟩
    exact ⟨hd, hf⟩
  · rintro ⟨h1, h2⟩
    exact ⟨c, h1, e, h2, rfl, rfl⟩

theorem mem_codeEntries_entry {v : Vector CacheEntry 128} (hv : CodesOk v) {cs : List Byte} {e : CacheIx} :
    e ∈ (codeEntries v cs).map (·.2) ↔ cs.any (fun c => (v.get e).fill.code == some c) = true := by
  rw [List.mem_map, List.any_eq_true]
  constructor
  · rintro ⟨x, hx, rfl⟩
    rw [mem_codeEntries] at hx
    exact ⟨x.1, hx.1, by simp [cacheFind_some hx.2]⟩
  · rintro ⟨c, hc, k⟩
    refine ⟨(c, e), mem_codeEntries.mpr ⟨hc, cacheFind_eq hv (by simpa using k)⟩, rfl⟩

/-- An admitted banner is loading or ready (R117). -/
theorem loadState_refers (v : Vector CacheEntry 128) (es : List (Byte × CacheIx)) :
    loadState v es = .bannerReady ∧ (∀ x ∈ es, (v.get x.2).fill.isHeld = true) ∨
      loadState v es = .bannerLoading ∧ ∃ x ∈ es, (v.get x.2).fill.isHeld = false := by
  unfold loadState
  split
  · next h => exact .inl ⟨rfl, by simpa using h⟩
  · next h => exact .inr ⟨rfl, by simpa using h⟩

/-- A state with another Notice Unit. -/
def withNotices (s : State) (u : NoticeUnit) : State := { s with notices := u }

/-- The notices that an admission leaves: the admitted one is loading or ready with the entries of its codes, and no
other has changed. -/
theorem admitBanner_entries (u : NoticeUnit) (n m : NoticeIx) :
    (admitBanner u n).entries.get m =
      if m = n then { u.entries.get n with
        state := loadState (admitBanner u n).cache
          (codeEntries (admitBanner u n).cache (codeSet (u.entries.get n).fields))
        entries := codeEntries (admitBanner u n).cache (codeSet (u.entries.get n).fields) }
      else u.entries.get m := by
  unfold admitBanner
  dsimp only
  rw [get_setAt, takeCodes_entries]

@[simp] theorem admitBanner_waitList (u : NoticeUnit) (n : NoticeIx) : (admitBanner u n).waitList = u.waitList := by
  simp [admitBanner]

/-- An admitted banner holds references (R117). -/
theorem admitBanner_refers (u : NoticeUnit) (n : NoticeIx) : ((admitBanner u n).entries.get n).refers := by
  rw [admitBanner_entries, if_pos rfl]
  rcases loadState_refers (admitBanner u n).cache
      (codeEntries (admitBanner u n).cache (codeSet (u.entries.get n).fields)) with ⟨q, _⟩ | ⟨q, _⟩
  · exact .inr q
  · exact .inl q

/-- A banner that fits is admitted, with the law kept (R117). -/
theorem CacheLaw.admitted {s : State} (h : CacheLaw s) (n : NoticeIx) (hn : ¬(s.notices.entries.get n).refers)
    (fit : bannerFits s.notices n = true) (wl : List NoticeIx)
    (hw : WaitsOk { admitBanner s.notices n with waitList := wl }) :
    CacheLaw (withNotices s { admitBanner s.notices n with waitList := wl }) := by
  have hroom : (missingOf s.notices.cache (codeSet (s.notices.entries.get n).fields)).length ≤
      (emptyEntries s.notices.cache).length := of_decide_eq_true fit
  have hk := takeCodes_spec _ (nodup_distinct _) s.notices h.codes h.empty hroom
  have hget := fun m => admitBanner_entries s.notices n m
  have hrefers := admitBanner_refers s.notices n
  change TookCodes s.notices.cache (admitBanner s.notices n).cache (codeSet (s.notices.entries.get n).fields) at hk
  generalize hu : admitBanner s.notices n = u at hk hget hrefers hw
  have hne : ∀ m, m ≠ n → u.entries.get m = s.notices.entries.get m := fun m hm => by rw [hget, if_neg hm]
  have hself := hget n
  rw [if_pos rfl] at hself
  have hload := loadState_refers u.cache (codeEntries u.cache (codeSet (s.notices.entries.get n).fields))
  have hkeep : ∀ e c, (s.notices.cache.get e).fill.code = some c →
      (u.cache.get e).fill = (s.notices.cache.get e).fill := fun e c k =>
    hk.keeps e fun q => by rw [q] at k; cases k
  have hheld : ∀ e, (s.notices.cache.get e).fill.isHeld = true → (u.cache.get e).fill.isHeld = true := by
    intro e k
    obtain ⟨c, hc⟩ := Fill.isHeld_code k
    rw [hkeep e c hc]; exact k
  have hrefs : ∀ e, references (withNotices s { u with waitList := wl }) e = references s e +
      if (codeSet (s.notices.entries.get n).fields).any (fun c => (u.cache.get e).fill.code == some c) = true
        then 1 else 0 := by
    intro e
    have q := references_notice (s := s) (t := withNotices s { u with waitList := wl }) n hne (fun _ => rfl) e
    rw [heldEntries_of_not hn, show (withNotices s { u with waitList := wl }).notices.entries = u.entries from rfl,
      heldEntries_of_refers hrefers, hself] at q
    simp only [List.not_mem_nil, if_false, Nat.add_zero, mem_codeEntries_entry hk.codes] at q
    exact q
  exact {
    counts := fun e => by rw [hrefs, ← h.counts]; exact hk.refs e
    held := fun e k => by
      have hs : (s.notices.cache.get e).fill.isHeld = true := by
        by_cases q : (s.notices.cache.get e).fill = .empty
        · rcases hk.empties e q with q' | ⟨c, q'⟩ <;> simp [withNotices, q', Fill.isHeld] at k
        · rw [← hk.keeps e q]; exact k
      have h1 := h.held e hs
      have h2 := hk.refs e
      change 0 < (u.cache.get e).refs
      omega
    empty := fun e k => by
      have hs : (s.notices.cache.get e).fill = .empty := by
        by_contra q
        exact q ((hk.keeps e q).symm.trans k)
      have h2 := hk.refs e
      rw [show (u.cache.get e).fill = .empty from k] at h2
      change (u.cache.get e).refs = 0
      rw [h2, h.empty e hs]
      simp [Fill.code]
    codes := hk.codes
    banners := fun m hm => by
      change (u.entries.get m).refers at hm
      change (u.entries.get m).entries.map (·.1) = codeSet (u.entries.get m).fields ∧
        ∀ x ∈ (u.entries.get m).entries, (u.cache.get x.2).fill.code = some x.1
      by_cases q : m = n
      · subst q
        rw [hself]
        exact ⟨codeEntries_codes hk.found, fun x hx => cacheFind_some (mem_codeEntries.mp hx).2⟩
      · rw [hne m q] at hm ⊢
        obtain ⟨h1, h2⟩ := h.banners m hm
        exact ⟨h1, fun x hx => by rw [hkeep x.2 x.1 (h2 x hx)]; exact h2 x hx⟩
    ready := fun m => by
      change ((u.entries.get m).state = .bannerReady →
          ∀ x ∈ (u.entries.get m).entries, (u.cache.get x.2).fill.isHeld = true) ∧
        ((u.entries.get m).state = .bannerLoading →
          ∃ x ∈ (u.entries.get m).entries, (u.cache.get x.2).fill.isHeld = false)
      by_cases q : m = n
      · subst q
        rw [hself]
        rcases hload with ⟨q, k⟩ | ⟨q, k⟩
        · exact ⟨fun _ => k, fun q' => absurd (q.symm.trans q') nofun⟩
        · exact ⟨fun q' => absurd (q.symm.trans q') nofun, fun _ => k⟩
      · rw [hne m q]
        obtain ⟨h1, h2⟩ := h.ready m
        refine ⟨fun k x hx => hheld x.2 (h1 k x hx), fun k => ?_⟩
        obtain ⟨x, hx, h3⟩ := h2 k
        exact ⟨x, hx, by rw [hkeep x.2 x.1 ((h.banners m (.inl k)).2 x hx)]; exact h3⟩
    latched := fun p e k => hheld e (h.latched p e k)
    waits := hw }

end Sys2Proof.Machine
end

section
namespace Sys2Proof.Machine

/-! #### Notices (R112, R113, R115, R118) -/

/-- The notices keep their fields, and IDLE ones stay IDLE and others not. -/
def NoticesKept (u v : NoticeUnit) : Prop :=
  ∀ n, (v.entries.get n).fields = (u.entries.get n).fields ∧
    ((v.entries.get n).state = .idle ↔ (u.entries.get n).state = .idle)

theorem NoticesKept.refl (u : NoticeUnit) : NoticesKept u u := fun _ => ⟨rfl, .rfl⟩

theorem NoticesKept.of_entries {u v : NoticeUnit} (h : v.entries = u.entries) : NoticesKept u v :=
  fun n => by rw [h]; exact ⟨rfl, .rfl⟩

theorem NoticesKept.trans {u v w : NoticeUnit} (h : NoticesKept u v) (k : NoticesKept v w) : NoticesKept u w :=
  fun n => ⟨(k n).1.trans (h n).1, (k n).2.trans (h n).2⟩

theorem Notice.refers_ne_idle {x : Notice} (h : x.refers) : x.state ≠ .idle := by
  rcases h with h | h <;> rw [h] <;> exact nofun

theorem Notice.refers_ne_waiting {x : Notice} (h : x.refers) : x.state ≠ .bannerWaiting := by
  rcases h with h | h <;> rw [h] <;> exact nofun

theorem Notice.not_refers_of_idle {x : Notice} (h : x.state = .idle) : ¬x.refers := fun k => Notice.refers_ne_idle k h

theorem Notice.not_refers_of_waiting {x : Notice} (h : x.state = .bannerWaiting) : ¬x.refers :=
  fun k => Notice.refers_ne_waiting k h

/-- A waiting banner that is tested by a walk (R118). -/
theorem CacheLaw.walkBanner {s : State} (h : CacheLaw s) (n : NoticeIx)
    (hn : (s.notices.entries.get n).state = .bannerWaiting) :
    CacheLaw (withNotices s (walkBanner s.notices n)) ∧ NoticesKept s.notices (Machine.walkBanner s.notices n) ∧
      ∀ m, m ≠ n → (Machine.walkBanner s.notices n).entries.get m = s.notices.entries.get m := by
  have hget := fun m => admitBanner_entries s.notices n m
  have href := admitBanner_refers s.notices n
  unfold Machine.walkBanner
  split
  · next fit =>
    refine ⟨h.admitted n (Notice.not_refers_of_waiting hn) fit _ ⟨h.waits.1.filter _, fun m => ?_⟩, fun m => ?_,
      fun m hm => by rw [hget, if_neg hm]⟩
    · rw [List.mem_filter, h.waits.2 m]
      by_cases e : m = n
      · subst e
        simp [Notice.refers_ne_waiting href]
      · simp [hget, e]
    · by_cases e : m = n
      · subst e
        refine ⟨by rw [hget, if_pos rfl], iff_of_false (Notice.refers_ne_idle href) ?_⟩
        rw [hn]; exact nofun
      · simp [hget, e]
  · exact ⟨h, .refl _, fun _ _ => rfl⟩

theorem CacheLaw.walkBanners {s : State} (l : List NoticeIx) (u : NoticeUnit) (h : CacheLaw (withNotices s u))
    (hn : l.Nodup) (hl : ∀ m ∈ l, (u.entries.get m).state = .bannerWaiting) :
    CacheLaw (withNotices s (l.foldl Machine.walkBanner u)) ∧ NoticesKept u (l.foldl Machine.walkBanner u) := by
  induction l generalizing u with
  | nil => exact ⟨h, .refl u⟩
  | cons n l ih =>
    rw [List.nodup_cons] at hn
    obtain ⟨h1, h2, h3⟩ := h.walkBanner n (hl n List.mem_cons_self)
    obtain ⟨h4, h5⟩ := ih (Machine.walkBanner u n) h1 hn.2 fun m hm => by
      have hm' : m ≠ n := fun e => hn.1 (e ▸ hm)
      rw [show (Machine.walkBanner u n).entries.get m = u.entries.get m from h3 m hm']
      exact hl m (List.mem_cons_of_mem _ hm)
    exact ⟨h4, h2.trans h5⟩

/-- A walk of the wait list keeps the law, and makes no notice IDLE (R118). -/
theorem CacheLaw.walkWaitList {s : State} (h : CacheLaw s) :
    CacheLaw (walkWaitList s) ∧ NoticesKept s.notices (Machine.walkWaitList s).notices :=
  CacheLaw.walkBanners (s := s) s.notices.waitList s.notices h h.waits.1 fun m hm => (h.waits.2 m).mp hm

theorem CacheLaw.walkIf {s : State} (h : CacheLaw s) (b : Bool) :
    CacheLaw (if b = true then Machine.walkWaitList s else s) ∧
      NoticesKept s.notices (if b = true then Machine.walkWaitList s else s).notices := by
  split
  · exact h.walkWaitList
  · exact ⟨h, .refl _⟩

theorem leaveState_entries (s : State) (n m : NoticeIx) :
    (leaveState s n).notices.entries.get m =
      if m = n then { s.notices.entries.get n with state := .idle, entries := [] } else s.notices.entries.get m := by
  simp [leaveState, get_setAt]

/-- A notice that becomes IDLE gives up its references and its place in the wait list (R115). -/
theorem CacheLaw.leaveState {s : State} (h : CacheLaw s) (n : NoticeIx) : CacheLaw (leaveState s n) := by
  have hget := leaveState_entries s n
  have hself : ¬((Machine.leaveState s n).notices.entries.get n).refers :=
    Notice.not_refers_of_idle (by rw [hget, if_pos rfl])
  refine h.dropped _ (h.nodup_heldEntries n) rfl ?_ ?_ (fun p => .inl (by simp)) ⟨h.waits.1.filter _, fun m => ?_⟩
  · intro e
    have := references_notice (s := s) (t := Machine.leaveState s n) n (fun m hm => by rw [hget, if_neg hm])
      (fun p => by simp) e
    simpa [heldEntries_of_not hself] using this
  · intro m hm
    by_cases e : m = n
    · rw [e] at hm; exact absurd hm hself
    · rw [hget, if_neg e]
  · rw [hget, show (Machine.leaveState s n).notices.waitList = s.notices.waitList.filter fun m => m != n from rfl,
      List.mem_filter, h.waits.2 m]
    by_cases e : m = n <;> simp [e]

theorem takeFields_entries (s : State) (n m : NoticeIx) (f : NoticeFields) :
    (takeFields s n f).notices.entries.get m =
      if m = n then { state := .idle, fields := f, seq := s.notices.counter + 1, entries := [] }
      else s.notices.entries.get m := by
  simp [takeFields, get_setAt]

/-- An IDLE notice that takes the fields of a record stays IDLE (R111). -/
theorem CacheLaw.takeFields {s : State} (h : CacheLaw s) (n : NoticeIx) (f : NoticeFields)
    (hn : (s.notices.entries.get n).state = .idle) : CacheLaw (takeFields s n f) := by
  have hget := fun m => takeFields_entries s n m f
  refine h.renotice n (fun m hm => by rw [hget, if_neg hm]) (Notice.not_refers_of_idle hn)
    (Notice.not_refers_of_idle (by rw [hget, if_pos rfl])) rfl rfl ⟨h.waits.1, fun m => ?_⟩
  rw [hget]
  by_cases e : m = n
  · subst e
    have := h.waits.2 m
    rw [hn] at this
    rw [if_pos rfl]
    exact this
  · rw [if_neg e]; exact h.waits.2 m

theorem activateLine_entries (s : State) (n m : NoticeIx) :
    (activateLine s n).notices.entries.get m =
      if m = n then { s.notices.entries.get n with state := .lineActive } else s.notices.entries.get m := by
  simp [activateLine, get_modAt]

/-- An IDLE notice that becomes LINE_ACTIVE (R112). -/
theorem CacheLaw.activateLine {s : State} (h : CacheLaw s) (n : NoticeIx)
    (hn : (s.notices.entries.get n).state = .idle) : CacheLaw (activateLine s n) := by
  have hget := activateLine_entries s n
  refine h.renotice n (fun m hm => by rw [hget, if_neg hm]) (Notice.not_refers_of_idle hn) ?_ rfl rfl
    ⟨h.waits.1, fun m => ?_⟩
  · rw [hget, if_pos rfl]
    rintro (k | k) <;> cases k
  · rw [hget]
    by_cases e : m = n
    · subst e
      have := h.waits.2 m
      rw [hn] at this
      rw [if_pos rfl]
      exact this.trans (iff_of_false nofun nofun)
    · rw [if_neg e]; exact h.waits.2 m

theorem joinWaitList_entries (u : NoticeUnit) (n m : NoticeIx) :
    (joinWaitList u n).entries.get m =
      if m = n then { u.entries.get n with state := .bannerWaiting, entries := [] } else u.entries.get m := by
  simp [joinWaitList, get_modAt]

/-- A posted banner that is IDLE is admitted, or waits (R112, R117). -/
theorem CacheLaw.tryBanner {s : State} (h : CacheLaw s) (n : NoticeIx)
    (hn : (s.notices.entries.get n).state = .idle) :
    CacheLaw (tryBanner s n) ∧ (∀ m, m ≠ n →
      (Machine.tryBanner s n).notices.entries.get m = s.notices.entries.get m) ∧
      ((Machine.tryBanner s n).notices.entries.get n).fields = (s.notices.entries.get n).fields ∧
      ((Machine.tryBanner s n).notices.entries.get n).state ≠ .idle := by
  have hwait : n ∉ s.notices.waitList := by
    rw [h.waits.2, hn]; exact nofun
  unfold Machine.tryBanner
  split
  · next fit =>
    have hget := fun m => admitBanner_entries s.notices n m
    have href := admitBanner_refers s.notices n
    refine ⟨h.admitted n (Notice.not_refers_of_idle hn) fit (admitBanner s.notices n).waitList ⟨?_, fun m => ?_⟩,
      fun m hm => by rw [hget, if_neg hm], by rw [hget, if_pos rfl], Notice.refers_ne_idle href⟩
    · rw [admitBanner_waitList]; exact h.waits.1
    · rw [admitBanner_waitList]
      by_cases e : m = n
      · subst e
        exact iff_of_false hwait (Notice.refers_ne_waiting href)
      · rw [h.waits.2, hget, if_neg e]
  · have hget := joinWaitList_entries s.notices n
    have heq : (waitBanner s n).notices = joinWaitList s.notices n := rfl
    refine ⟨?_, fun m hm => by rw [heq, hget, if_neg hm], by rw [heq, hget, if_pos rfl], ?_⟩
    · refine h.renotice n (fun m hm => by rw [heq, hget, if_neg hm]) (Notice.not_refers_of_idle hn) ?_ rfl rfl ⟨?_, ?_⟩
      · rw [heq, hget, if_pos rfl]
        exact Notice.not_refers_of_waiting rfl
      · exact nodup_insertBy _ (h.waits.1.filter _) (by simp)
      · intro m
        rw [heq, hget]
        change m ∈ insertBy _ _ _ ↔ _
        rw [mem_insertBy, List.mem_filter, h.waits.2]
        by_cases e : m = n <;> simp [e]
    · rw [heq, hget, if_pos rfl]
      exact nofun

/-- What posting a notice does to the notices: it takes its fields and leaves IDLE; the others keep their fields, and
IDLE ones stay IDLE and others not (R112). -/
structure Posted (u v : NoticeUnit) (n : NoticeIx) (f : NoticeFields) : Prop where
  fields : (v.entries.get n).fields = f
  state : (v.entries.get n).state ≠ .idle
  others : ∀ m, m ≠ n → (v.entries.get m).fields = (u.entries.get m).fields ∧
    ((v.entries.get m).state = .idle ↔ (u.entries.get m).state = .idle)

/-- An accepted POSTED record keeps the law (R112). -/
theorem CacheLaw.postNotice {s : State} (h : CacheLaw s) (n : NoticeIx) (f : NoticeFields) :
    CacheLaw (postNotice s n f) ∧ Posted s.notices (Machine.postNotice s n f).notices n f := by
  unfold Machine.postNotice
  dsimp only
  have h1 := h.leaveState n
  have hidle : ((Machine.leaveState s n).notices.entries.get n).state = .idle := by
    rw [leaveState_entries, if_pos rfl]
  have h2 := h1.takeFields n f hidle
  have hself := takeFields_entries (Machine.leaveState s n) n n f
  rw [if_pos rfl] at hself
  have hidle2 : ((Machine.takeFields (Machine.leaveState s n) n f).notices.entries.get n).state = .idle := by
    rw [hself]
  have hother : ∀ m, m ≠ n → (Machine.takeFields (Machine.leaveState s n) n f).notices.entries.get m =
      s.notices.entries.get m := fun m hm => by
    rw [takeFields_entries, if_neg hm, leaveState_entries, if_neg hm]
  generalize Machine.takeFields (Machine.leaveState s n) n f = s2 at h2 hself hidle2 hother
  have h3 : ∃ s3, (if f.kind = .line then Machine.activateLine s2 n else Machine.tryBanner s2 n) = s3 ∧ CacheLaw s3 ∧
      Posted s.notices s3.notices n f := by
    refine ⟨_, rfl, ?_⟩
    split
    · refine ⟨h2.activateLine n hidle2, ?_, ?_, fun m hm => ?_⟩
      · rw [activateLine_entries, if_pos rfl, hself]
      · rw [activateLine_entries, if_pos rfl]; exact nofun
      · rw [activateLine_entries, if_neg hm, hother m hm]; exact ⟨rfl, .rfl⟩
    · obtain ⟨k1, k2, k3, k4⟩ := h2.tryBanner n hidle2
      refine ⟨k1, k3.trans (by rw [hself]), k4, fun m hm => ?_⟩
      rw [k2 m hm, hother m hm]; exact ⟨rfl, .rfl⟩
  obtain ⟨s3, h4, h5, h6⟩ := h3
  rw [h4]
  have h7 : ∀ t, t.notices = s3.notices → t.scan = s3.scan → CacheLaw t := fun t e1 e2 =>
    h5.of_eq (by rw [e1]) (by rw [e1]) (by rw [e1]) (fun p => by rw [e2])
  obtain ⟨h8, h9⟩ := (h7 (recomputeNotices (setExpiry s3 n f.lifetime)
    (lineMask (s.notices.entries.get n) ||| (if f.kind = .line then f.mask else 0)))
    (by simp) (by simp)).walkIf (leavingFrees s n)
  refine ⟨h8, ?_⟩
  have h10 : NoticesKept s3.notices _ := (NoticesKept.of_entries (by simp)).trans h9
  exact ⟨(h10 n).1.trans h6.fields, fun k => h6.state ((h10 n).2.mp k), fun m hm =>
    ⟨(h10 m).1.trans (h6.others m hm).1, (h10 m).2.trans (h6.others m hm).2⟩⟩

/-- A standing notice that ends keeps the law; it is IDLE afterwards, and no other notice becomes so (R113). -/
theorem CacheLaw.endNotice {s : State} (h : CacheLaw s) (n : NoticeIx) :
    CacheLaw (endNotice s n) ∧ ∀ m, ((Machine.endNotice s n).notices.entries.get m).fields =
      (s.notices.entries.get m).fields ∧ (((Machine.endNotice s n).notices.entries.get m).state = .idle ↔
        m = n ∨ (s.notices.entries.get m).state = .idle) := by
  unfold Machine.endNotice
  dsimp only
  have h1 : CacheLaw (recomputeNotices (Machine.leaveState s n) (lineMask (s.notices.entries.get n))) :=
    (h.leaveState n).of_eq (by simp) (by simp) (by simp) (fun p => by simp)
  obtain ⟨h2, h3⟩ := h1.walkIf (leavingFrees s n)
  refine ⟨h2, fun m => ?_⟩
  obtain ⟨h4, h5⟩ := h3 m
  rw [h4, h5]
  simp only [recomputeNotices_keeps, leaveState_entries]
  by_cases e : m = n
  · subst e; simp
  · simp [e]

/-! #### Glyph fetches (R120) -/

theorem readyBanners_entries (u : NoticeUnit) (n : NoticeIx) :
    (readyBanners u).entries.get n =
      if (u.entries.get n).state = .bannerLoading ∧
          (u.entries.get n).entries.all (fun e => (u.cache.get e.2).fill.isHeld) = true then
        { u.entries.get n with state := .bannerReady }
      else u.entries.get n := by
  simp [readyBanners]

/-- Making banners ready changes no reference. -/
theorem readyBanners_heldEntries (u : NoticeUnit) (n : NoticeIx) :
    heldEntries ((readyBanners u).entries.get n) = heldEntries (u.entries.get n) := by
  rw [readyBanners_entries]
  split
  · next h => simp [heldEntries, h.1]
  · rfl

theorem readyBanners_kept (u : NoticeUnit) : NoticesKept u (readyBanners u) := by
  intro n
  rw [readyBanners_entries]
  split
  · next h => simp [h.1]
  · exact ⟨rfl, .rfl⟩

/-- A FILLING entry that is referred to becomes HELD, and the banners that waited for it become ready (R120). -/
theorem CacheLaw.filled {s : State} (h : CacheLaw s) (e : CacheIx) (code : Byte) (mask : List Byte)
    (hf : (s.notices.cache.get e).fill = .filling code) (hr : (s.notices.cache.get e).refs ≠ 0) (v : NoticeUnit)
    (hv : v = { s.notices with
      cache := setAt s.notices.cache e { s.notices.cache.get e with fill := .held code mask } }) :
    CacheLaw (withNotices s (readyBanners v)) := by
  have hcache : ∀ f, v.cache.get f = if f = e then { s.notices.cache.get e with fill := .held code mask }
      else s.notices.cache.get f := fun f => by rw [hv]; simp [get_setAt]
  have hent : v.entries = s.notices.entries := by rw [hv]
  have hcode : ∀ f, (v.cache.get f).fill.code = (s.notices.cache.get f).fill.code := by
    intro f
    rw [hcache]
    split
    · next k => rw [k, hf]; rfl
    · rfl
  have hrefs : ∀ f, (v.cache.get f).refs = (s.notices.cache.get f).refs := by
    intro f
    rw [hcache]
    split
    · next k => rw [k]
    · rfl
  have hheld : ∀ f, (s.notices.cache.get f).fill.isHeld = true → (v.cache.get f).fill.isHeld = true := by
    intro f k
    rw [hcache]
    split
    · rfl
    · exact k
  have hready := readyBanners_entries v
  rw [hent] at hready
  exact {
    counts := fun f => by
      change (v.cache.get f).refs = _
      rw [hrefs, h.counts]
      unfold references
      congr 1
      refine List.countP_congr fun n _ => ?_
      have := readyBanners_heldEntries v n
      rw [hent] at this
      simp [withNotices, this]
    held := fun f k => by
      change 0 < (v.cache.get f).refs
      change (v.cache.get f).fill.isHeld = true at k
      rw [hrefs]
      rw [hcache] at k
      split at k
      · next q => rw [q]; omega
      · exact h.held f k
    empty := fun f k => by
      change (v.cache.get f).refs = 0
      rw [hrefs]
      refine h.empty f (Fill.code_eq_none.mp ?_)
      rw [← hcode, show (v.cache.get f).fill = .empty from k]
      rfl
    codes := fun f g c k q => by
      change (v.cache.get f).fill.code = some c at k
      change (v.cache.get g).fill.code = some c at q
      rw [hcode] at k q
      exact h.codes f g c k q
    banners := fun n k => by
      change ((readyBanners v).entries.get n).refers at k
      change ((readyBanners v).entries.get n).entries.map (·.1) = codeSet ((readyBanners v).entries.get n).fields ∧
        ∀ x ∈ ((readyBanners v).entries.get n).entries, (v.cache.get x.2).fill.code = some x.1
      simp only [hcode]
      rw [hready] at k ⊢
      split at k
      · next q => rw [if_pos q]; exact h.banners n (.inl q.1)
      · next q => rw [if_neg q]; exact h.banners n k
    ready := fun n => by
      change (((readyBanners v).entries.get n).state = .bannerReady →
          ∀ x ∈ ((readyBanners v).entries.get n).entries, (v.cache.get x.2).fill.isHeld = true) ∧
        (((readyBanners v).entries.get n).state = .bannerLoading →
          ∃ x ∈ ((readyBanners v).entries.get n).entries, (v.cache.get x.2).fill.isHeld = false)
      rw [hready]
      split
      · next q => exact ⟨fun _ => by simpa using q.2, nofun⟩
      · next q =>
        refine ⟨fun k x hx => hheld x.2 ((h.ready n).1 k x hx), fun k => ?_⟩
        simpa [k] using q
    latched := fun p f k => hheld f (h.latched p f k)
    waits := by
      refine ⟨?_, fun n => ?_⟩
      · change v.waitList.Nodup
        rw [hv]; exact h.waits.1
      · change n ∈ v.waitList ↔ ((readyBanners v).entries.get n).state = .bannerWaiting
        rw [hready, hv]
        change n ∈ s.notices.waitList ↔ _
        rw [h.waits.2]
        split
        · next q => simp [q.1]
        · exact .rfl }

/-- A FILLING entry that nothing refers to becomes EMPTY (R120). -/
theorem CacheLaw.emptied {s : State} (h : CacheLaw s) (e : CacheIx) (hr : (s.notices.cache.get e).refs = 0) :
    CacheLaw (setCache s e .empty) := by
  have hcache : ∀ f, (setCache s e .empty).notices.cache.get f = if f = e then .empty else s.notices.cache.get f :=
    fun f => by simp [setCache, get_setAt]
  have hno : ∀ f, 0 < references s f → (setCache s e .empty).notices.cache.get f = s.notices.cache.get f := by
    intro f k
    rw [hcache, if_neg]
    rintro rfl
    have := h.counts f
    omega
  have hent : (setCache s e .empty).notices.entries = s.notices.entries := rfl
  have hcode : ∀ f c, ((setCache s e .empty).notices.cache.get f).fill.code = some c →
      (s.notices.cache.get f).fill.code = some c := by
    intro f c k
    rw [hcache] at k
    split at k
    · cases k
    · exact k
  have hnotice : ∀ n, (s.notices.entries.get n).refers → ∀ x ∈ (s.notices.entries.get n).entries,
      (setCache s e .empty).notices.cache.get x.2 = s.notices.cache.get x.2 := by
    intro n k x hx
    refine hno x.2 (references_pos_of_notice (n := n) ?_)
    rw [heldEntries_of_refers k]
    exact List.mem_map.mpr ⟨x, hx, rfl⟩
  have href : ∀ f, references (setCache s e .empty) f = references s f :=
    references_congr (s := s) (t := setCache s e .empty) rfl (fun _ => rfl)
  exact {
    counts := fun f => by
      rw [href, hcache]
      split
      · next q => rw [q, ← h.counts e, hr]; rfl
      · exact h.counts f
    held := fun f k => by
      rw [hcache] at k ⊢
      split at k
      · cases k
      · next q => rw [if_neg q]; exact h.held f k
    empty := fun f k => by
      rw [hcache] at k ⊢
      split at k
      · next q => rw [if_pos q]; rfl
      · next q => rw [if_neg q]; exact h.empty f k
    codes := fun f g c k q => h.codes f g c (hcode f c k) (hcode g c q)
    banners := fun n k => by
      obtain ⟨h1, h2⟩ := h.banners n k
      exact ⟨h1, fun x hx => by rw [hnotice n k x hx]; exact h2 x hx⟩
    ready := fun n => by
      refine ⟨fun k x hx => ?_, fun k => ?_⟩
      · rw [hnotice n (.inr k) x hx]; exact (h.ready n).1 k x hx
      · obtain ⟨x, hx, h1⟩ := (h.ready n).2 k
        exact ⟨x, hx, by rw [hnotice n (.inl k) x hx]; exact h1⟩
    latched := fun p f k => by rw [hno f (references_pos_of_latch k)]; exact h.latched p f k
    waits := h.waits }

/-- A glyph fetch that has completed keeps the law, and no notice becomes IDLE or leaves IDLE (R120). -/
theorem CacheLaw.fillEntry {s : State} (h : CacheLaw s) (e : CacheIx) (x : ReadResult) :
    CacheLaw (fillEntry s e x) ∧ NoticesKept s.notices (Machine.fillEntry s e x).notices := by
  unfold Machine.fillEntry
  dsimp only
  split
  · next code hf =>
    split
    · next hr =>
      obtain ⟨h1, h2⟩ := (h.emptied e hr).walkWaitList
      exact ⟨h1, (NoticesKept.of_entries rfl).trans h2⟩
    · next hr =>
      split
      · exact ⟨h.filled e code _ hf hr _ rfl, (NoticesKept.of_entries rfl).trans (readyBanners_kept _)⟩
      · exact ⟨(h.filled e code _ hf hr _ rfl).of_eq rfl rfl rfl (fun _ => rfl),
          (NoticesKept.of_entries rfl).trans (readyBanners_kept _)⟩
  · exact ⟨h, .refl _⟩

end Sys2Proof.Machine
end

section
namespace Sys2Proof.Machine

/-! #### Passes and their latches (R121, R127 to R129) -/

theorem releaseLatch_cache (s : State) (p : PanelIx) :
    (releaseLatch s p).notices.cache = dropRefs s.notices.cache (latchRefs (s.scan.get p).banner) ∧
      (releaseLatch s p).notices.waitList = s.notices.waitList := by
  unfold releaseLatch
  dsimp only
  split <;> simp

theorem releaseLatch_banner (s : State) (p q : PanelIx) :
    ((releaseLatch s p).scan.get q).banner = if q = p then none else (s.scan.get q).banner := by
  rw [releaseLatch_scan]
  split <;> rfl

/-- A latch released gives up the references of its banner part (R128). -/
theorem CacheLaw.releaseLatch {s : State} (h : CacheLaw s) (p : PanelIx) : CacheLaw (releaseLatch s p) := by
  obtain ⟨hc, hw⟩ := releaseLatch_cache s p
  have he := releaseLatch_entries s p
  have hb := releaseLatch_banner s p
  refine h.dropped _ (nodup_latchRefs (s.scan.get p).banner) hc ?_ (fun n _ => by rw [he]) (fun q => ?_) ?_
  · intro e
    have := references_latch (s := s) (t := Machine.releaseLatch s p) p he (fun q hq => by rw [hb, if_neg hq]) e
    simpa [hb, latchRefs] using this
  · rw [hb]
    split
    · exact .inr rfl
    · exact .inl rfl
  · unfold WaitsOk
    rw [he, hw]
    exact h.waits

/-- The banner offered to a pass is ready (R121). -/
theorem bannerOffered_ready {u : NoticeUnit} {p : PanelIx} {n : NoticeIx} (h : bannerOffered u p = some n) :
    (u.entries.get n).state = .bannerReady := by
  have hm : n ∈ sortBy (newerFirst u) ((List.finRange 32).filter fun n => bannerFor (u.entries.get n) p) :=
    List.mem_of_mem_head? h
  rw [mem_sortBy, List.mem_filter] at hm
  have := hm.2
  unfold bannerFor at this
  simp only [Bool.and_eq_true, beq_iff_eq] at this
  exact this.1

/-- The entries at a banner's text positions are among its entries. -/
theorem mem_positionEntries {x : Notice} {e : CacheIx} (h : e ∈ positionEntries x) : ∃ y ∈ x.entries, y.2 = e := by
  unfold positionEntries at h
  rw [List.mem_filterMap] at h
  obtain ⟨c, _, h⟩ := h
  rw [Option.map_eq_some_iff] at h
  obtain ⟨y, hy, rfl⟩ := h
  exact ⟨y, List.mem_of_find?_eq_some hy, rfl⟩

/-- A panel with a new banner part in its latch, whose references are taken (R127). -/
def withBanner (s : State) (p : PanelIx) (b : BannerLatch) : State :=
  { s with
    notices := { s.notices with cache := holdRefs s.notices.cache (latchRefs (some b)) }
    scan := modAt s.scan p fun x => { x with banner := some b } }

/-- A pass latches nothing, or a ready banner by the entries of its text positions (R127). -/
theorem latchBanner_cases (s : State) (p : PanelIx) :
    latchBanner s p = s ∨ ∃ n b, (s.notices.entries.get n).state = .bannerReady ∧
      b.entries = positionEntries (s.notices.entries.get n) ∧ latchBanner s p = withBanner s p b := by
  unfold latchBanner
  dsimp only
  split
  · exact .inl rfl
  · next n hn =>
    refine .inr ⟨n, _, ?_, rfl, rfl⟩
    split at hn
    · exact bannerOffered_ready hn
    · cases hn

theorem latchBanner_entries (s : State) (p : PanelIx) : (latchBanner s p).notices.entries = s.notices.entries := by
  rcases latchBanner_cases s p with h | ⟨n, b, _, _, h⟩ <;> rw [h]
  rfl

/-- A new latch takes references on the entries of a ready banner (R127). -/
theorem CacheLaw.latchBanner {s : State} (h : CacheLaw s) (p : PanelIx) (hp : (s.scan.get p).banner = none) :
    CacheLaw (latchBanner s p) := by
  rcases latchBanner_cases s p with k | ⟨n, b, hready, hb, k⟩
  · rw [k]; exact h
  · rw [k]
    refine h.raised (latchRefs (some b)) (nodup_latchRefs _) rfl ?_ rfl rfl ?_ (fun q => ?_)
    · intro e
      have := references_latch (s := s) (t := withBanner s p b) p rfl (fun q hq => by simp [withBanner, hq]) e
      simpa [hp, latchRefs, withBanner] using this
    · intro e he
      simp only [latchRefs, mem_distinct, hb] at he
      obtain ⟨y, hy, rfl⟩ := mem_positionEntries he
      exact (h.ready n).1 hready y hy
    · by_cases e : q = p
      · subst e; right; simp [withBanner]
      · left; simp [withBanner, e]

theorem latchTrailer_banners (s : State) (p q : PanelIx) :
    ((latchTrailer s p).scan.get q).banner = (s.scan.get q).banner := by
  by_cases e : q = p
  · subst e; exact latchTrailer_banner s q
  · rw [latchTrailer_scan_ne s e]

theorem CacheLaw.startPass {s : State} (h : CacheLaw s) (p : PanelIx) :
    CacheLaw (startPass s p) ∧ NoticesKept s.notices (Machine.startPass s p).notices := by
  unfold Machine.startPass
  dsimp only
  have h1 := (h.releaseLatch p).latchBanner p (by rw [releaseLatch_banner, if_pos rfl])
  have h2 : CacheLaw (latchTrailer (Machine.latchBanner (Machine.releaseLatch s p) p) p) :=
    h1.of_eq (by simp) (by simp) (by simp) (latchTrailer_banners _ p)
  obtain ⟨h3, h4⟩ := h2.walkIf (releaseFrees s p)
  refine ⟨h3, (NoticesKept.of_entries ?_).trans h4⟩
  simp [latchBanner_entries, releaseLatch_entries]

/-- A read of a panel keeps the law, and no notice becomes IDLE or leaves IDLE (R126). -/
theorem CacheLaw.scanRead {s : State} (h : CacheLaw s) (p : PanelIx) (row : Nat) :
    CacheLaw (scanRead s p row) ∧ NoticesKept s.notices (Machine.scanRead s p row).notices := by
  unfold Machine.scanRead
  dsimp only
  have hmod : ∀ (t : State) (q : PanelIx), ((modAt t.scan p fun y => { y with
      scanning := true, lastRow := row, idleStart := some s.clock.ticks }).get q).banner = (t.scan.get q).banner := by
    intro t q
    rw [get_modAt]
    split
    · next e => rw [e]
    · rfl
  split
  · obtain ⟨h1, h2⟩ := h.startPass p
    exact ⟨h1.of_eq rfl rfl rfl (hmod _), h2⟩
  · exact ⟨h.of_eq rfl rfl rfl (hmod s), .refl _⟩

/-- The end of a pass keeps the law, and no notice becomes IDLE or leaves IDLE (R129). -/
theorem CacheLaw.endPass {s : State} (h : CacheLaw s) (p : PanelIx) :
    CacheLaw (endPass s p) ∧ NoticesKept s.notices (Machine.endPass s p).notices := by
  unfold Machine.endPass
  dsimp only
  have h1 : CacheLaw { Machine.releaseLatch s p with
      scan := modAt (Machine.releaseLatch s p).scan p fun y => { y with scanning := false, idleStart := none } } := by
    refine (h.releaseLatch p).of_eq rfl rfl rfl fun q => ?_
    dsimp only
    rw [get_modAt]
    split
    · next e => rw [e]
    · rfl
  obtain ⟨h2, h3⟩ := h1.walkIf (releaseFrees s p)
  exact ⟨h2, (NoticesKept.of_entries (releaseLatch_entries s p)).trans h3⟩

/-! #### The notices of a build (R123) -/

/-- Notices leave IDLE: those of a list, and no others; all keep their fields. -/
def Entered (u v : NoticeUnit) (l : List NoticeIx) : Prop :=
  ∀ n, (v.entries.get n).fields = (u.entries.get n).fields ∧
    ((v.entries.get n).state ≠ .idle ↔ n ∈ l ∨ (u.entries.get n).state ≠ .idle)

/-- IDLE notices of a list that are entered one after another, by an operation that keeps the law. -/
theorem CacheLaw.enter {f : State → NoticeIx → State}
    (hf : ∀ s n, CacheLaw s → (s.notices.entries.get n).state = .idle → CacheLaw (f s n) ∧
      (∀ m, m ≠ n → (f s n).notices.entries.get m = s.notices.entries.get m) ∧
      ((f s n).notices.entries.get n).fields = (s.notices.entries.get n).fields ∧
      ((f s n).notices.entries.get n).state ≠ .idle)
    (l : List NoticeIx) (hn : l.Nodup) {s : State} (h : CacheLaw s)
    (hl : ∀ n ∈ l, (s.notices.entries.get n).state = .idle) :
    CacheLaw (l.foldl f s) ∧ Entered s.notices (l.foldl f s).notices l := by
  induction l generalizing s with
  | nil => exact ⟨h, fun n => ⟨rfl, by simp⟩⟩
  | cons a l ih =>
    rw [List.nodup_cons] at hn
    obtain ⟨h1, h2, h3, h4⟩ := hf s a h (hl a List.mem_cons_self)
    obtain ⟨h5, h6⟩ := ih hn.2 h1 fun n hn' => by
      rw [h2 n (fun e => hn.1 (e ▸ hn'))]
      exact hl n (List.mem_cons_of_mem _ hn')
    refine ⟨h5, fun n => ?_⟩
    obtain ⟨h7, h8⟩ := h6 n
    rw [List.foldl_cons, h7, h8, List.mem_cons]
    by_cases e : n = a
    · subst e; exact ⟨h3, iff_of_true (.inr h4) (.inl (.inl rfl))⟩
    · rw [h2 n e]; exact ⟨rfl, by simp [e]⟩

/-- When all notices have been read the posted ones leave IDLE, with the law kept (R123). -/
theorem CacheLaw.finishNotices {s : State} (h : CacheLaw s) (hp : s.start.posted.Nodup)
    (hi : ∀ n, (s.notices.entries.get n).state = .idle) :
    CacheLaw (finishNotices s) ∧ Entered s.notices (Machine.finishNotices s).notices s.start.posted := by
  unfold Machine.finishNotices
  dsimp only
  obtain ⟨h1, h2⟩ := CacheLaw.enter (f := Machine.activateLine) (fun t n ht hn => by
      refine ⟨ht.activateLine n hn, fun m hm => ?_, ?_, ?_⟩
      · rw [activateLine_entries, if_neg hm]
      · rw [activateLine_entries, if_pos rfl]
      · rw [activateLine_entries, if_pos rfl]; exact nofun)
    (s.start.posted.filter fun n => (s.notices.entries.get n).fields.kind == .line) (hp.filter _) h (fun n _ => hi n)
  generalize (List.filter (fun n => (s.notices.entries.get n).fields.kind == .line) s.start.posted).foldl
    Machine.activateLine s = s1 at h1 h2
  obtain ⟨h3, h4⟩ := CacheLaw.enter (f := Machine.tryBanner) (fun t n ht hn => ht.tryBanner n hn)
    (sortBy (olderFirst s1.notices) (s.start.posted.filter fun n => (s.notices.entries.get n).fields.kind == .banner))
    (nodup_sortBy _ (hp.filter _)) h1 (fun n hn => by
      rw [mem_sortBy, List.mem_filter] at hn
      by_contra hne
      have := (h2 n).2.mp hne
      rw [List.mem_filter] at this
      rcases this with ⟨_, k⟩ | k
      · have h5 := hn.2
        simp_all
      · exact k (hi n))
  refine ⟨h3.of_eq (by simp) (by simp) (by simp) (fun p => by simp), fun n => ?_⟩
  obtain ⟨h5, h6⟩ := h2 n
  obtain ⟨h7, h8⟩ := h4 n
  simp only [recomputeNotices_keeps]
  rw [h7, h5, h8, h6]
  refine ⟨rfl, ?_⟩
  simp only [mem_sortBy, List.mem_filter, hi n]
  cases hk : (s.notices.entries.get n).fields.kind <;> simp

end Sys2Proof.Machine
end

section
namespace Sys2Proof.Machine

/-! ### The law of a Due List, apart from the state that says what is expected (R65, R66, R68) -/

/-- All entries: those of the list and those of the firing batch. -/
def DueList.all (d : DueList) : List DueEntry := d.list ++ d.batch

/-- The kinds and subjects that have an entry. -/
def DueList.keys (d : DueList) : List DueKey := d.all.map (·.key)

/-- `DueLaw` of a Due List by itself: `ex` says which entries are expected, and `now` is the lobby time. -/
structure DueListLaw (d : DueList) (now : LobbyTime) (ex : DueKey → Bool) : Prop where
  once : d.keys.Nodup
  expected : ∀ k, k ∈ d.keys ↔ ex k = true
  targets : ∀ e ∈ d.all, ((∃ i, e.key = .phase i) ↔ e.target.isSome = true)
  pending : ∀ e ∈ d.list, passed now e.time = false
  order : d.list.Pairwise fun a b => distance now a.time ≤ distance now b.time

theorem DueLaw.listLaw {s : State} (h : DueLaw s) : DueListLaw s.due s.clock.now (expects s) :=
  ⟨h.once, h.expected, h.targets, h.pending, h.order⟩

theorem DueListLaw.dueLaw {s : State} (h : DueListLaw s.due s.clock.now (expects s))
    (lifetimes : ∀ n, (s.notices.entries.get n).fields.lifetime < 65536)
    (waits : ∀ n ∈ s.notices.waitList, (s.notices.entries.get n).state = .bannerWaiting) : DueLaw s :=
  ⟨h.once, h.expected, h.targets, h.pending, h.order, lifetimes, waits⟩

theorem DueListLaw.congr {d : DueList} {now : LobbyTime} {ex ex' : DueKey → Bool} (h : DueListLaw d now ex)
    (k : ∀ x, ex' x = ex x) : DueListLaw d now ex' := (funext k : ex' = ex) ▸ h

theorem DueListLaw.of_empty (now : LobbyTime) {ex : DueKey → Bool} (h : ∀ k, ex k = false) :
    DueListLaw .empty now ex := by
  constructor <;> simp [DueList.empty, DueList.keys, DueList.all, h]

/-! #### Entries leave -/

/-- The entries that a test of their kind and subject keeps, of the list and of the batch. -/
def DueList.keep (d : DueList) (f : DueKey → Bool) : DueList :=
  { list := d.list.filter fun e => f e.key, batch := d.batch.filter fun e => f e.key }

theorem DueList.all_keep (d : DueList) (f : DueKey → Bool) : (d.keep f).all = d.all.filter fun e => f e.key := by
  simp [DueList.all, DueList.keep]

theorem DueList.keys_keep (d : DueList) (f : DueKey → Bool) : (d.keep f).keys = d.keys.filter f := by
  simp [DueList.keys, DueList.all_keep, List.filter_map, Function.comp_def]

/-- The entries kept are those still expected. -/
theorem DueListLaw.keep {d : DueList} {now : LobbyTime} {ex : DueKey → Bool} (h : DueListLaw d now ex)
    (f : DueKey → Bool) : DueListLaw (d.keep f) now fun k => ex k && f k where
  once := d.keys_keep f ▸ h.once.filter f
  expected k := by rw [d.keys_keep f, List.mem_filter, h.expected, Bool.and_eq_true]
  targets e he := by
    rw [d.all_keep f] at he
    exact h.targets e (List.mem_of_mem_filter he)
  pending e he := h.pending e (List.mem_of_mem_filter he)
  order := h.order.filter _

theorem DueList.remove_eq_keep (d : DueList) (k : DueKey) : d.remove k = d.keep (· != k) := rfl

theorem DueListLaw.remove {d : DueList} {now : LobbyTime} {ex : DueKey → Bool} (h : DueListLaw d now ex) (k : DueKey) :
    DueListLaw (d.remove k) now fun j => ex j && j != k := h.keep (· != k)

/-- The front of the firing batch leaves it (R68). -/
theorem DueListLaw.pop {d : DueList} {now : LobbyTime} {ex : DueKey → Bool} (h : DueListLaw d now ex) {e : DueEntry}
    {rest : List DueEntry} (hb : d.batch = e :: rest) :
    DueListLaw { d with batch := d.batch.tail } now fun k => ex k && k != e.key := by
  have hp : d.keys.Perm (e.key :: (d.list ++ rest).map (·.key)) := by
    simp only [DueList.keys, DueList.all, hb]
    exact (List.perm_middle.map _)
  obtain ⟨hnot, hnd⟩ := List.nodup_cons.mp (hp.nodup_iff.mp h.once)
  rw [hb]
  refine ⟨hnd, fun k => ?_, fun x hx => h.targets x ?_, h.pending, h.order⟩
  · have hk := (hp.mem_iff (a := k)).symm.trans (h.expected k)
    rw [List.mem_cons] at hk
    change k ∈ (d.list ++ rest).map (·.key) ↔ _
    rw [Bool.and_eq_true, ← hk, bne_iff_ne]
    exact ⟨fun h1 => ⟨.inr h1, fun h2 => hnot (h2 ▸ h1)⟩, fun h1 => h1.1.resolve_left h1.2⟩
  · simp only [DueList.all, hb, List.mem_append, List.mem_cons] at hx ⊢
    tauto

/-! #### An entry comes -/

/-- A pending entry inserted is then expected, and no other in its place (R66). -/
theorem DueListLaw.insert {d : DueList} {now : LobbyTime} {ex : DueKey → Bool} (h : DueListLaw d now ex) (e : DueEntry)
    (hp : passed now e.time = false) (ht : (∃ i, e.key = .phase i) ↔ e.target.isSome = true) :
    DueListLaw (d.insert now e) now fun k => ex k || k == e.key := by
  have hr := h.remove e.key
  have hnot : e.key ∉ (d.remove e.key).keys := by simp [hr.expected]
  have hperm : (d.insert now e).all.Perm (e :: (d.remove e.key).all) := by
    simp only [DueList.insert, hp, Bool.false_eq_true, if_false]
    exact (insertBy_perm _ _ _).append_right _
  have hkeys : (d.insert now e).keys.Perm (e.key :: (d.remove e.key).keys) := hperm.map _
  have hlist : (d.insert now e).list = insertDueBy now e (d.remove e.key).list := by
    simp [DueList.insert, hp]
  refine ⟨hkeys.nodup_iff.mpr (List.nodup_cons.mpr ⟨hnot, hr.once⟩), fun k => ?_, fun x hx => ?_, fun x hx => ?_, ?_⟩
  · rw [hkeys.mem_iff, List.mem_cons, hr.expected]
    simp only [Bool.or_eq_true, Bool.and_eq_true, bne_iff_ne, beq_iff_eq]
    tauto
  · rcases List.mem_cons.mp (hperm.mem_iff.mp hx) with rfl | hx
    · exact ht
    · exact hr.targets x hx
  · rw [hlist, insertDueBy, mem_insertBy] at hx
    rcases hx with rfl | hx
    · exact hp
    · exact hr.pending x hx
  · rw [hlist]
    simpa [insertDueBy] using pairwise_insertBy (le := fun x y => decide (distance now x.time ≤ distance now y.time))
      (by simp [Nat.le_total]) (by simpa using fun _ _ _ => Nat.le_trans) e (by simpa using hr.order)

/-! #### Lobby time moves (R68, R73, R74) -/

theorem passed_eq_false {now t : LobbyTime} :
    passed now t = false ↔ 1 ≤ distance now t ∧ distance now t ≤ 524288 := by
  simp only [passed, Bool.or_eq_false_iff, beq_eq_false_iff_ne, decide_eq_false_iff_not]
  omega

/-- When lobby time moves on by `j` seconds, a distance above `j` falls by `j`. -/
theorem distance_forward {old new t : LobbyTime} (h : (new - old).toNat < distance old t) :
    distance new t = distance old t - (new - old).toNat := by
  unfold distance at *
  bv_omega

/-- A forward move fires the entries it reaches, and leaves the others pending and in order (R68, R73). -/
theorem DueListLaw.fire {d : DueList} {old new : LobbyTime} {ex : DueKey → Bool} (h : DueListLaw d old ex) {j : Nat}
    (hj : j = (new - old).toNat) : DueListLaw (d.fire old j) new ex := by
  have hperm : (d.fire old j).all.Perm d.all := by
    have hsplit := List.filter_append_perm (fun e : DueEntry => decide (j < distance old e.time)) d.list
    have hnot : (fun e : DueEntry => !decide (j < distance old e.time)) = fun e => decide (distance old e.time ≤ j) :=
      funext fun e => by rw [← decide_not]; exact decide_eq_decide.mpr not_lt
    rw [hnot] at hsplit
    have hswap : (d.fire old j).all.Perm ((d.list.filter fun e => decide (j < distance old e.time)) ++
        ((d.list.filter fun e => decide (distance old e.time ≤ j)) ++ d.batch)) :=
      List.perm_append_comm.append_left _
    rw [← List.append_assoc] at hswap
    exact hswap.trans (hsplit.append_right _)
  have hdist : ∀ e ∈ (d.fire old j).list, e ∈ d.list ∧ j < distance old e.time ∧
      distance new e.time = distance old e.time - j := fun e he => by
    obtain ⟨hm, hlt⟩ := List.mem_filter.mp he
    have hlt : j < distance old e.time := by simpa using hlt
    subst hj
    exact ⟨hm, hlt, distance_forward hlt⟩
  refine ⟨(hperm.map _).nodup_iff.mpr h.once, fun k => (hperm.map _).mem_iff.trans (h.expected k),
    fun e he => h.targets e (hperm.mem_iff.mp he), fun e he => ?_, ?_⟩
  · obtain ⟨hm, hlt, hd⟩ := hdist e he
    have hp := passed_eq_false.mp (h.pending e hm)
    rw [passed_eq_false, hd]
    omega
  · refine (h.order.filter _).imp_of_mem fun {a b} ha hb hab => ?_
    obtain ⟨_, _, ha⟩ := hdist a ha
    obtain ⟨_, _, hb⟩ := hdist b hb
    rw [ha, hb]
    omega

/-- The distance of an entry after a backward jump (R74). -/
theorem distance_setBackTime {old new t : LobbyTime} {j : Nat} :
    distance new (setBackTime old new j t) = min (distance old t + j) 524288 := by
  have hlt : min (distance old t + j) 524288 < 1048576 := by omega
  have hadd : ∀ x : LobbyTime, new + x - new = x := fun x => by bv_omega
  unfold setBackTime after
  generalize min (distance old t + j) 524288 = m at hlt
  simp only [distance, hadd, BitVec.toNat_ofNat]
  omega

/-- A backward jump leaves every entry of the list pending and in order (R74). -/
theorem DueListLaw.setBack {d : DueList} {old new : LobbyTime} {ex : DueKey → Bool} (h : DueListLaw d old ex)
    (j : Nat) : DueListLaw (d.setBack old new j) new ex := by
  have hkeys : (d.setBack old new j).keys = d.keys := by
    simp [DueList.keys, DueList.all, DueList.setBack, Function.comp_def]
  refine ⟨hkeys ▸ h.once, fun k => by rw [hkeys, h.expected], fun e he => ?_, fun e he => ?_, ?_⟩
  · rcases List.mem_append.mp he with he | he
    · obtain ⟨x, hx, rfl⟩ := List.mem_map.mp he
      exact h.targets x (List.mem_append_left _ hx)
    · exact h.targets e (List.mem_append_right _ he)
  · obtain ⟨x, hx, rfl⟩ := List.mem_map.mp he
    have hp := passed_eq_false.mp (h.pending x hx)
    rw [passed_eq_false, distance_setBackTime]
    omega
  · refine List.pairwise_map.mpr (h.order.imp fun {a b} hab => ?_)
    simp only [distance_setBackTime]
    omega

/-- A time set keeps the law against the new time (R71, R73, R74). -/
theorem DueListLaw.jumpTo {d : DueList} {old new : LobbyTime} {ex : DueKey → Bool} (h : DueListLaw d old ex) :
    DueListLaw (d.jumpTo old new) new ex := by
  unfold DueList.jumpTo
  split
  · exact h.fire rfl
  · exact h.setBack _

/-- A second keeps the law against the new time (R68): what a step of one second reaches is at distance 0 of it. -/
theorem DueListLaw.second {d : DueList} {now : LobbyTime} {ex : DueKey → Bool} (h : DueListLaw d now ex) :
    DueListLaw (d.fire (now + 1) 0) (now + 1) ex := by
  have hone : (now + 1 - now).toNat = 1 := by bv_omega
  have hdist : ∀ e ∈ d.list, distance (now + 1) e.time = distance now e.time - 1 := fun e he => by
    have hp := passed_eq_false.mp (h.pending e he)
    unfold distance at *
    bv_omega
  have heq : d.fire (now + 1) 0 = d.fire now 1 := by
    unfold DueList.fire
    congr 1
    · exact List.filter_congr fun e he => by rw [hdist e he]; simp only [decide_eq_decide]; omega
    · congr 1
      exact List.filter_congr fun e he => by rw [hdist e he]; simp only [decide_eq_decide]; omega
  rw [heq]
  exact h.fire hone.symm

end Sys2Proof.Machine
end

section
namespace Sys2Proof.Machine

/-! ### The Due List through the operations of the Seat Unit and the journal (R22 to R29, R48 to R56) -/

theorem expects_phase (s : State) (i : ShowingIx) : expects s (.phase i) = passesGate (s.seats.entries.get i).phase :=
  rfl

theorem expects_hold (s : State) (g : HoldIx) : expects s (.hold g) = (s.holds.get g).isSome := rfl

/-- What is expected of a notice stands in the notices, the part state and the posted notices. -/
theorem expects_notice_congr {s t : State} (hn : t.notices = s.notices) (hp : t.rebuilding = s.rebuilding)
    (hs : t.start.posted = s.start.posted) (n : NoticeIx) : expects t (.notice n) = expects s (.notice n) := by
  simp only [expects, hn, hp, hs]

/-- The law after a change that leaves the notices alone. -/
theorem DueListLaw.toDueLaw {s t : State} (h : DueLaw s) {ex : DueKey → Bool} (hl : DueListLaw t.due s.clock.now ex)
    (hex : ∀ k, expects t k = ex k) (hnow : t.clock.now = s.clock.now) (hn : t.notices = s.notices) : DueLaw t := by
  refine DueListLaw.dueLaw ?_ (by rw [hn]; exact h.lifetimes) (by rw [hn]; exact h.waits)
  rw [hnow]
  exact hl.congr hex

/-- What leaves alone all that the law reads keeps it. -/
theorem DueLaw.of_eq {s t : State} (h : DueLaw s)
    (h1 : ∀ i, (t.seats.entries.get i).phase = (s.seats.entries.get i).phase) (h2 : t.holds = s.holds)
    (h3 : t.due = s.due) (h4 : t.clock.now = s.clock.now) (h5 : t.notices = s.notices)
    (h6 : t.rebuilding = s.rebuilding) (h7 : t.start.posted = s.start.posted) : DueLaw t := by
  refine DueListLaw.toDueLaw h (ex := expects s) (h3 ▸ h.listLaw) (fun k => ?_) h4 h5
  cases k with
  | phase i => rw [expects_phase, h1, expects_phase]
  | hold g => rw [expects_hold, h2, expects_hold]
  | notice n => exact expects_notice_congr h5 h6 h7 n

/-! #### Phases -/

/-- What is expected once a showing's phase and the Hold Table have been replaced. -/
def expectPhase (s : State) (i : ShowingIx) (gate : Bool) (holds : Vector (Option Hold) 64) : DueKey → Bool
  | .phase j => if j = i then gate else expects s (.phase j)
  | .hold g => (holds.get g).isSome
  | .notice n => expects s (.notice n)

/-- Of a phase and its PHASE entry: there is an entry exactly for a phase that passes the gate, and its time is
pending. -/
def EntryFits (now : LobbyTime) (r : Phase × Option (Phase × LobbyTime)) : Prop :=
  passesGate r.1 = r.2.isSome ∧ ∀ x, r.2 = some x → passed now x.2 = false

theorem EntryFits.some {now : LobbyTime} {p q : Phase} {t : LobbyTime} (hp : passesGate p = true)
    (ht : passed now t = false) : EntryFits now (p, some (q, t)) :=
  ⟨hp, fun x hx => by cases hx; exact ht⟩

theorem EntryFits.none {now : LobbyTime} {p : Phase} (hp : passesGate p = false) : EntryFits now (p, none) :=
  ⟨hp, nofun⟩

theorem chainFromStarted_fits (c : Setup) (now start : LobbyTime) :
    EntryFits now (chainFromStarted c now start) := by
  unfold chainFromStarted
  split
  · exact .none rfl
  · next h => exact .some rfl (by simpa [phasePassed, entryTime] using h)

theorem chainFromLastCall_fits (c : Setup) (now start : LobbyTime) :
    EntryFits now (chainFromLastCall c now start) := by
  unfold chainFromLastCall
  split
  · exact chainFromStarted_fits c now start
  · next h => exact .some rfl (by simpa [phasePassed, entryTime] using h)

theorem chainFromOnSale_fits (c : Setup) (now start : LobbyTime) :
    EntryFits now (chainFromOnSale c now start) := by
  unfold chainFromOnSale
  split
  · exact chainFromLastCall_fits c now start
  · next h => exact .some rfl (by simpa [phasePassed, entryTime] using h)

/-- The chain of R22 ends in a phase whose PHASE entry fits it. -/
theorem phaseChain_fits (c : Setup) (now start : LobbyTime) (p : Phase) : EntryFits now (phaseChain c now start p) := by
  cases p with
  | onSale => exact chainFromOnSale_fits c now start
  | lastCall => exact chainFromLastCall_fits c now start
  | started => exact chainFromStarted_fits c now start
  | vacant => exact .none rfl
  | closed => exact .none rfl
  | cancelled => exact .none rfl

/-- The entries that stay when a showing's holds are released (R56). -/
def notHeldFor (s : State) (i : ShowingIx) : DueKey → Bool
  | .hold g => !holdNames (s.holds.get g) i
  | _ => true

theorem releaseHolds_due (s : State) (i : ShowingIx) : (releaseHolds s i).due = s.due.keep (notHeldFor s i) := by
  refine congrArg₂ DueList.mk (List.filter_congr fun e _ => ?_) (List.filter_congr fun e _ => ?_) <;>
    obtain ⟨k, q, t⟩ := e <;> cases k <;> rfl

theorem releaseHolds_isSome (s : State) (i : ShowingIx) (g : HoldIx) :
    ((releaseHolds s i).holds.get g).isSome = ((s.holds.get g).isSome && notHeldFor s i (.hold g)) := by
  simp only [releaseHolds, get_mapTab, notHeldFor]
  cases s.holds.get g with
  | none => simp [holdNames]
  | some x => cases h : holdNames (some x) i <;> simp

/-- A showing that loses its holds and its PHASE entry expects neither (R27, R28, R29). -/
theorem DueListLaw.cleared {s : State} {d : DueList} {ex : DueKey → Bool} (h : DueListLaw d s.clock.now ex)
    (i : ShowingIx) (hex : ∀ k, k ≠ .phase i → ex k = expects s k) :
    DueListLaw ((d.keep (notHeldFor s i)).remove (.phase i)) s.clock.now
      (expectPhase s i false (releaseHolds s i).holds) := by
  refine ((h.keep _).remove (.phase i)).congr fun k => ?_
  cases k with
  | phase j =>
    by_cases hj : j = i
    · simp [expectPhase, hj]
    · simp [expectPhase, hj, notHeldFor, hex (.phase j) (by simpa using hj)]
  | hold g => simp [expectPhase, releaseHolds_isSome, hex (.hold g) nofun, expects_hold]
  | notice n => simp [expectPhase, hex (.notice n) nofun, notHeldFor]

/-- Removals of two kinds of entries change places. -/
theorem DueList.keep_remove (d : DueList) (f : DueKey → Bool) (k : DueKey) :
    (d.keep f).remove k = (d.remove k).keep f := by
  simp only [DueList.remove_eq_keep, DueList.keep, List.filter_filter, Bool.and_comm]

/-- A phase entered keeps the law, with what the phase then expects; the showing's old PHASE entry may be gone already
(R22, R23, R28). -/
theorem DueListLaw.enterPhase {s : State} {ex : DueKey → Bool} (h : DueListLaw s.due s.clock.now ex) (i : ShowingIx)
    (hex : ∀ k, k ≠ .phase i → ex k = expects s k) (e : Seat) (p : Phase) :
    DueListLaw (enterPhase s i e p).1.due s.clock.now
      (expectPhase s i (passesGate (Machine.enterPhase s i e p).2.phase) (Machine.enterPhase s i e p).1.holds) := by
  obtain ⟨hgate, htime⟩ := phaseChain_fits s.setup s.clock.now e.start p
  have hr : DueListLaw (s.due.remove (.phase i)) s.clock.now (expectPhase s i false s.holds) := by
    refine (h.remove (.phase i)).congr fun k => ?_
    cases k with
    | phase j =>
      by_cases hj : j = i
      · simp [expectPhase, hj]
      · simp [expectPhase, hj, hex (.phase j) (by simpa using hj)]
    | hold g => simp [expectPhase, hex (.hold g) nofun, expects_hold]
    | notice n => simp [expectPhase, hex (.notice n) nofun]
  unfold Machine.enterPhase
  dsimp only
  split
  · have hc := h.cleared i hex
    rw [DueList.keep_remove] at hc
    have hd : (releaseHolds (removeDue s (.phase i)) i).due = (s.due.remove (.phase i)).keep (notHeldFor s i) :=
      releaseHolds_due _ _
    rw [hd]
    exact hc
  · split
    · next x hx =>
      rw [hx] at hgate
      refine (hr.insert { key := .phase i, target := some x.1, time := x.2 } (htime x hx) (by simp)).congr fun k => ?_
      cases k with
      | phase j => by_cases hj : j = i <;> simp [expectPhase, hj, Seat.recount, hgate]
      | hold g => simp [expectPhase, insertDue, removeDue]
      | notice n => simp [expectPhase]
    · next hx =>
      rw [hx] at hgate
      simpa [Seat.recount, hgate, removeDue] using hr

/-- The state in which an entry with a phase stands in the showing's place expects what `expectPhase` says. -/
theorem expects_changeSeat {s u : State} (i : ShowingIx) (e : Seat) (hs : u.seats = s.seats)
    (hn : u.notices = s.notices) (hp : u.part = s.part) (hst : u.start = s.start) (k : DueKey) :
    expects (changeSeat u i e) k = expectPhase s i (passesGate e.phase) u.holds k := by
  cases k with
  | phase j =>
    by_cases hj : j = i
    · simp [expects_phase, expectPhase, hj]
    · simp [expects_phase, expectPhase, hj, hs]
  | hold g => simp [expects_hold, expectPhase]
  | notice n => exact expects_notice_congr (by simpa using hn) (by simp [State.rebuilding, hp]) (by simp [hst]) n

/-- A showing put into a phase keeps the law (R25). -/
theorem DueLaw.changeSeat_enterPhase {s : State} (h : DueLaw s) (i : ShowingIx) (e : Seat) (p : Phase) :
    DueLaw (changeSeat (enterPhase s i e p).1 i (enterPhase s i e p).2) :=
  DueListLaw.toDueLaw h (by simpa using h.listLaw.enterPhase i (fun _ _ => rfl) e p)
    (expects_changeSeat i _ (by simp) (by simp) (by simp) (by simp)) (by simp) (by simp)

/-- A showing that is cleared keeps the law (R27, R29). -/
theorem DueLaw.changeSeat_cleared {s : State} (h : DueLaw s) (i : ShowingIx) (e : Seat)
    (he : passesGate e.phase = false) : DueLaw (changeSeat (removeDue (releaseHolds s i) (.phase i)) i e) := by
  have hc := h.listLaw.cleared i fun _ _ => rfl
  rw [← releaseHolds_due] at hc
  refine DueListLaw.toDueLaw h (by simpa [removeDue] using hc) (fun k => ?_) (by simp) (by simp)
  rw [expects_changeSeat (s := s) i _ (by simp) (by simp) (by simp) (by simp), he]
  simp

/-- A handed showing record keeps the law (R24 to R29). -/
theorem DueLaw.handShowing {s : State} (h : DueLaw s) (i : ShowingIx) (bs : List Byte) :
    DueLaw (handShowing s i bs) := by
  unfold Machine.handShowing
  dsimp only
  split
  · exact h.of_eq (by simp) (by simp) (by simp) (by simp) (by simp) (by simp [State.rebuilding]) (by simp)
  · split
    · exact h.changeSeat_enterPhase i _ _
    · split
      · exact h.changeSeat_cleared i _ rfl
      · exact h.changeSeat_cleared i _ rfl

/-! #### An entry handed on, and the journal -/

/-- The law but for one kind and subject, which has no entry, whether it is expected or not. -/
structure DueLawBut (s : State) (k : DueKey) : Prop where
  list : DueListLaw s.due s.clock.now fun j => expects s j && j != k
  lifetimes : ∀ n, (s.notices.entries.get n).fields.lifetime < 65536
  waits : ∀ n ∈ s.notices.waitList, (s.notices.entries.get n).state = .bannerWaiting

/-- The law stands again when the kind and subject is not expected. -/
theorem DueLawBut.dueLaw {s : State} {k : DueKey} (h : DueLawBut s k) (hk : expects s k = false) : DueLaw s := by
  refine DueListLaw.dueLaw (h.list.congr fun j => ?_) h.lifetimes h.waits
  by_cases hj : j = k
  · simp [hj, hk]
  · simp [hj]

/-- An entry that a firing batch hands on has left it (R68). -/
theorem DueLaw.popBatch {s : State} (h : DueLaw s) {e : DueEntry} {rest : List DueEntry}
    (hb : s.due.batch = e :: rest) : DueLawBut (popBatch s) e.key :=
  ⟨h.listLaw.pop hb, h.lifetimes, h.waits⟩

theorem DueLaw.removeDue {s : State} (h : DueLaw s) (k : DueKey) : DueLawBut (removeDue s k) k :=
  ⟨h.listLaw.remove k, h.lifetimes, h.waits⟩

theorem DueLawBut.removeDue {s : State} {k : DueKey} (h : DueLawBut s k) : DueLawBut (Machine.removeDue s k) k :=
  ⟨(h.list.remove k).congr fun j => by
    change (expects s j && j != k) = _
    simp, h.lifetimes, h.waits⟩

/-- A PHASE firing keeps the law (R23). -/
theorem DueLaw.firePhase {s : State} (h : DueLaw s) {i : ShowingIx} {q : Option Phase} {t : LobbyTime}
    {rest : List DueEntry} (hb : s.due.batch = { key := .phase i, target := q, time := t } :: rest) (p : Phase) :
    DueLaw (firePhase (Machine.popBatch s) i p) := by
  have hbut := h.popBatch hb
  refine DueListLaw.toDueLaw h ?_
    (expects_changeSeat (s := Machine.popBatch s) i _ (by simp) (by simp) (by simp) (by simp)) (by simp [Machine.firePhase]) (by simp [Machine.firePhase])
  simpa [Machine.firePhase] using hbut.list.enterPhase i (fun k hk => by simp [hk]) _ p

/-- New counts leave what is expected as it was. -/
theorem expects_setCounts (s : State) (i : ShowingIx) (a b : Nat) (k : DueKey) :
    expects (setCounts s i a b) k = expects s k := by
  unfold setCounts
  rw [expects_changeSeat (s := s) i _ rfl rfl rfl rfl]
  cases k with
  | phase j => by_cases hj : j = i <;> simp [expectPhase, hj, Seat.recount, expects_phase]
  | hold g => rfl
  | notice n => rfl

theorem DueLaw.setCounts {s : State} (h : DueLaw s) (i : ShowingIx) (a b : Nat) : DueLaw (setCounts s i a b) :=
  DueListLaw.toDueLaw h (by simpa using h.listLaw) (expects_setCounts s i a b) (by simp) (by simp)

/-- A report leaves the law alone. -/
theorem DueLaw.raise {s : State} (h : DueLaw s) (k : ReportKind) (a b : List Byte) : DueLaw (raise s k a b) :=
  h.of_eq (by simp) (by simp) (by simp) (by simp) (by simp) (by simp [State.rebuilding]) (by simp)

theorem DueLaw.clampReport {s : State} (h : DueLaw s) (k : ReportKind) (slot : JournalIx) (r : JournalRec) (n : Nat) :
    DueLaw (clampReport s k slot r n) := by
  unfold Machine.clampReport
  split
  · exact h.raise _ _ _
  · exact h

/-- A hold taken out of the Hold Table is no longer expected to expire. -/
theorem expects_removeHold (s : State) (g : HoldIx) (k : DueKey) :
    expects (removeHold s g) k = (expects s k && k != .hold g) := by
  cases k with
  | phase i => simp [expects_phase, removeHold]
  | hold f => by_cases hf : f = g <;> simp [expects_hold, removeHold, removeDue, hf]
  | notice n => simp [expects, removeHold, State.rebuilding]

/-- A hold taken out of the Hold Table with its HOLD_EXPIRE entry keeps the law (R52, R53). -/
theorem DueLaw.removeHold {s : State} (h : DueLaw s) (g : HoldIx) : DueLaw (removeHold s g) :=
  DueListLaw.toDueLaw h (h.listLaw.remove (.hold g)) (expects_removeHold s g) rfl rfl

theorem DueLaw.sell {s : State} (h : DueLaw s) (slot : JournalIx) (r : JournalRec) : DueLaw (sell s slot r) := by
  unfold Machine.sell
  split
  · exact (h.clampReport _ _ _ _).setCounts _ _ _
  · exact h.raise _ _ _

theorem clampLife_bounds (n : Nat) : 30 ≤ clampLife n ∧ clampLife n ≤ 900 := by
  unfold clampLife
  omega

/-- A time that lies 1 to 2^19 seconds ahead is pending (R64, R65). -/
theorem passed_after {now : LobbyTime} {n : Nat} (h0 : 0 < n) (h1 : n ≤ 524288) : passed now (after now n) = false := by
  have hd : distance now (after now n) = n := by
    have hadd : ∀ x : LobbyTime, now + x - now = x := fun x => by bv_omega
    unfold distance after
    rw [hadd, BitVec.toNat_ofNat]
    omega
  rw [passed_eq_false, hd]
  omega

/-- A hold placed in a free entry keeps the law (R51). -/
theorem DueLaw.placeHold {s : State} (h : DueLaw s) {g : HoldIx} (x : Hold) (n : Nat) :
    DueLaw (insertDue { s with holds := setAt s.holds g (some x) } (.hold g) none
      (after s.clock.now (clampLife n))) := by
  obtain ⟨h0, h1⟩ := clampLife_bounds n
  refine DueListLaw.toDueLaw h (h.listLaw.insert
    { key := .hold g, target := none, time := after s.clock.now (clampLife n) }
    (passed_after (by omega) (by omega)) (by simp)) (fun k => ?_) rfl rfl
  cases k with
  | phase i => simp [expects_phase]
  | hold f => by_cases hf : f = g <;> simp [expects_hold, insertDue, hf]
  | notice m => simp [expects, State.rebuilding]

theorem DueLaw.hold {s : State} (h : DueLaw s) (slot : JournalIx) (r : JournalRec) : DueLaw (hold s slot r) := by
  unfold Machine.hold
  dsimp only
  split
  · exact h.raise _ _ _
  · split
    · exact h.raise _ _ _
    · split
      · exact h.raise _ _ _
      · split
        · exact h.raise _ _ _
        · exact ((h.placeHold _ _).clampReport _ _ _ _).setCounts _ _ _

theorem DueLaw.convert {s : State} (h : DueLaw s) (slot : JournalIx) (r : JournalRec) : DueLaw (convert s slot r) := by
  unfold Machine.convert
  dsimp only
  split
  · split
    · exact (h.removeHold _).setCounts _ _ _
    · exact (h.raise _ _ _).sell slot r
  · exact (h.raise _ _ _).sell slot r

theorem DueLaw.release {s : State} (h : DueLaw s) (slot : JournalIx) (r : JournalRec) : DueLaw (release s slot r) := by
  unfold Machine.release
  dsimp only
  split
  · split
    · exact (h.removeHold _).setCounts _ _ _
    · exact h.raise _ _ _
  · exact h.raise _ _ _

/-- A journal record acted on keeps the law (R44, R48 to R53). -/
theorem DueLaw.applyJournal {s : State} (h : DueLaw s) (r : JournalRec) : DueLaw (applyJournal s r) := by
  unfold Machine.applyJournal
  dsimp only
  split
  · exact h.raise _ _ _
  · split
    · exact h.sell _ r
    · exact (h.clampReport _ _ _ _).setCounts _ _ _
    · exact h.hold _ r
    · exact h.convert _ r
    · exact h.release _ r
    · exact h

/-- A hold that expires keeps the law (R55). -/
theorem DueLaw.expireHold {s : State} (h : DueLaw s) {g : HoldIx} {q : Option Phase} {t : LobbyTime}
    {rest : List DueEntry} (hb : s.due.batch = { key := .hold g, target := q, time := t } :: rest) :
    DueLaw (expireHold (Machine.popBatch s) g) := by
  have hbut := h.popBatch hb
  unfold Machine.expireHold
  split
  · next hg => exact hbut.dueLaw (by rw [expects_hold, hg]; rfl)
  · next x hg =>
    refine DueLaw.raise (DueLaw.setCounts ?_ _ _ _) _ _ _
    exact DueListLaw.toDueLaw h hbut.removeDue.list (expects_removeHold _ g) rfl rfl

end Sys2Proof.Machine
end

section
namespace Sys2Proof.Machine

/-! ### The Due List through the notices and the lobby clock (R62, R63, R71 to R74, R110 to R113) -/

theorem u16_lt (bs : List Byte) (i : Nat) : u16 bs i < 65536 := by
  have h1 := (byteAt bs i).isLt
  have h2 := (byteAt bs (i + 1)).isLt
  unfold u16 u8
  omega

/-- Outside BUILDING and RESTARTING a notice that stands is expected to expire when it has a lifetime. -/
theorem expects_notice {s : State} (hs : s.rebuilding = false) (n : NoticeIx) :
    expects s (.notice n) = ((s.notices.entries.get n).state != .idle &&
      (s.notices.entries.get n).fields.lifetime != 0) := by
  simp [expects, hs]

theorem not_rebuilding_of_active {s : State} (h : s.active = true) : s.rebuilding = false := by
  revert h
  cases hp : s.part <;> simp [State.active, State.rebuilding, hp]

/-- Notices that keep their fields, and IDLE ones IDLE and others not, are expected to expire as they were. -/
theorem expects_notice_of_kept {s t : State} (hk : NoticesKept s.notices t.notices)
    (hp : t.rebuilding = s.rebuilding) (hs : t.start.posted = s.start.posted) (n : NoticeIx) :
    expects t (.notice n) = expects s (.notice n) := by
  obtain ⟨hf, hi⟩ := hk n
  have hb : ((t.notices.entries.get n).state != .idle) = ((s.notices.entries.get n).state != .idle) := by
    rw [Bool.eq_iff_iff, bne_iff_ne, bne_iff_ne, ne_eq, hi]
  simp only [expects, hp, hs, hf, hb]

/-- What leaves the Due List alone, and of the notices the fields and whether they stand, keeps the law. -/
theorem DueLaw.of_kept {s t : State} (h : DueLaw s) (hc : CacheLaw t) (hk : NoticesKept s.notices t.notices)
    (h1 : t.seats = s.seats) (h2 : t.holds = s.holds) (h3 : t.due = s.due) (h4 : t.clock.now = s.clock.now)
    (h5 : t.part = s.part) (h6 : t.start.posted = s.start.posted) : DueLaw t := by
  refine DueListLaw.dueLaw ?_ (fun n => by rw [(hk n).1]; exact h.lifetimes n) fun n hn => (hc.waits.2 n).mp hn
  rw [h3, h4]
  refine h.listLaw.congr fun k => ?_
  cases k with
  | phase i => rw [expects_phase, h1, expects_phase]
  | hold g => rw [expects_hold, h2, expects_hold]
  | notice n => exact expects_notice_of_kept hk (by simp only [State.rebuilding, h5]) h6 n

/-- A POSTED record that is accepted keeps the law (R112). -/
theorem DueLaw.postNotice {s : State} (h : DueLaw s) (hc : CacheLaw s) (hs : s.rebuilding = false) (n : NoticeIx)
    {f : NoticeFields} (hf : f.lifetime < 65536) : DueLaw (postNotice s n f) := by
  obtain ⟨hc', hfields, hstate, hothers⟩ := hc.postNotice n f
  have hs' : (Machine.postNotice s n f).rebuilding = false := by simpa [State.rebuilding] using hs
  have hn : expects (Machine.postNotice s n f) (.notice n) = (f.lifetime != 0) := by
    rw [expects_notice hs', hfields]
    simp [hstate]
  have hm : ∀ m, m ≠ n → expects (Machine.postNotice s n f) (.notice m) = expects s (.notice m) := fun m hne => by
    obtain ⟨h1, h2⟩ := hothers m hne
    have hb : (((Machine.postNotice s n f).notices.entries.get m).state != .idle) =
        ((s.notices.entries.get m).state != .idle) := by
      rw [Bool.eq_iff_iff, bne_iff_ne, bne_iff_ne, ne_eq, h2]
    rw [expects_notice hs', expects_notice hs, h1, hb]
  refine DueListLaw.dueLaw ?_ (fun m => ?_) fun m hm => (hc'.waits.2 m).mp hm
  · rw [postNotice_due, (postNotice_keeps s n f).2.2.2.2.2.2.2.2.2.2.2.2.1]
    split
    · next hz =>
      refine (h.listLaw.remove (.notice n)).congr fun k => ?_
      cases k with
      | phase i => simp [expects_phase]
      | hold g => simp [expects_hold]
      | notice m => by_cases e : m = n <;> simp [e, hn, hm, hz]
    · next hz =>
      refine (h.listLaw.insert { key := .notice n, target := none, time := after s.clock.now f.lifetime }
        (passed_after (by omega) (by omega)) (by simp)).congr fun k => ?_
      cases k with
      | phase i => simp [expects_phase]
      | hold g => simp [expects_hold]
      | notice m => by_cases e : m = n <;> simp [e, hn, hm, hz]
  · by_cases e : m = n
    · rw [e, hfields]; exact hf
    · rw [(hothers m e).1]; exact h.lifetimes m

/-- A notice that ends, its NOTICE_EXPIRE entry gone, keeps the law (R113). -/
theorem DueLawBut.endNotice {s : State} {n : NoticeIx} (h : DueLawBut s (.notice n)) (hc : CacheLaw s)
    (hs : s.rebuilding = false) : DueLaw (endNotice s n) := by
  obtain ⟨hc', hends⟩ := hc.endNotice n
  have hs' : (Machine.endNotice s n).rebuilding = false := by simpa [State.rebuilding] using hs
  have hn : ∀ m, expects (Machine.endNotice s n) (.notice m) =
      (expects s (.notice m) && DueKey.notice m != .notice n) := fun m => by
      obtain ⟨h1, h2⟩ := hends m
      rw [expects_notice hs', expects_notice hs, h1, Bool.eq_iff_iff]
      simp only [Bool.and_eq_true, bne_iff_ne, ne_eq, h2, DueKey.notice.injEq]
      tauto
  refine DueListLaw.dueLaw ?_ (fun m => by rw [(hends m).1]; exact h.lifetimes m) fun m hm => (hc'.waits.2 m).mp hm
  simp only [endNotice_keeps]
  refine h.list.congr fun k => ?_
  cases k with
  | phase i => simp [expects_phase]
  | hold g => simp [expects_hold]
  | notice m => exact hn m

/-- A handed notice record keeps the law (R110 to R113). -/
theorem DueLaw.handNotice {s : State} (h : DueLaw s) (hc : CacheLaw s) (hs : s.rebuilding = false) (n : NoticeIx)
    (bs : List Byte) : DueLaw (handNotice s n bs) := by
  unfold Machine.handNotice withdrawNotice
  dsimp only
  split
  · exact h.raise _ _ _
  · split
    · split
      · exact h
      · refine (h.removeDue (.notice n)).endNotice ?_ hs
        exact hc.of_eq rfl rfl rfl fun _ => rfl
    · exact h.postNotice hc hs n (u16_lt bs 56)

/-- A notice that expires keeps the law (R113). -/
theorem DueLaw.expireNotice {s : State} (h : DueLaw s) (hc : CacheLaw s) (hs : s.rebuilding = false) {n : NoticeIx}
    {q : Option Phase} {t : LobbyTime} {rest : List DueEntry}
    (hb : s.due.batch = { key := .notice n, target := q, time := t } :: rest) :
    DueLaw (expireNotice (Machine.popBatch s) n) := by
  have hbut : DueLawBut (Machine.popBatch s) (.notice n) := h.popBatch hb
  unfold Machine.expireNotice
  dsimp only
  split
  · next hi => exact hbut.dueLaw (by rw [expects_notice (s := Machine.popBatch s) hs, hi]; rfl)
  · refine DueLaw.raise ?_ _ _ _
    refine hbut.endNotice ?_ hs
    exact hc.of_eq rfl rfl rfl fun _ => rfl

/-! #### The lobby clock -/

/-- A change of lobby time keeps the law when the Due List keeps it against the new time. -/
theorem DueLaw.of_now {s t : State} (h : DueLaw s) (hl : DueListLaw t.due t.clock.now (expects s))
    (h1 : t.seats = s.seats) (h2 : t.holds = s.holds) (h3 : t.notices = s.notices) (h4 : t.part = s.part)
    (h5 : t.start = s.start) : DueLaw t := by
  refine DueListLaw.dueLaw (hl.congr fun k => ?_) (by rw [h3]; exact h.lifetimes) (by rw [h3]; exact h.waits)
  cases k with
  | phase i => rw [expects_phase, h1, expects_phase]
  | hold g => rw [expects_hold, h2, expects_hold]
  | notice n => exact expects_notice_congr h3 (by simp only [State.rebuilding, h4]) (by rw [h5]) n

/-- What a second does to lobby time and to the Due List in RUNNING and QUIET (R62, R68). -/
theorem secondAdvance_active {s : State} (ha : s.active = true) :
    (secondAdvance s).clock.now = s.clock.now + 1 ∧ (secondAdvance s).due = s.due.fire (s.clock.now + 1) 0 := by
  have ha' : ∀ c : Clock, ({ s with clock := c } : State).active = true := fun _ => ha
  unfold secondAdvance
  simp only [ha', if_true]
  split <;> simp

/-- A second in RUNNING or QUIET keeps the law (R62, R68). -/
theorem DueLaw.secondAdvance {s : State} (h : DueLaw s) (ha : s.active = true) : DueLaw (secondAdvance s) := by
  obtain ⟨hnow, hdue⟩ := secondAdvance_active ha
  refine h.of_now ?_ (by simp) (by simp) (by simp) (by simp) (by simp)
  rw [hnow, hdue]
  exact h.listLaw.second

/-- A time set keeps the law (R71 to R74). -/
theorem DueLaw.moveTime {s : State} (h : DueLaw s) (v : LobbyTime) : DueLaw (moveTime s v) := by
  refine h.of_now ?_ (by simp) (by simp) (by simp) (by simp) (by simp)
  have hdue : (Machine.moveTime s v).due = s.due.jumpTo s.clock.now v := by simp [Machine.moveTime]
  have hnow : (Machine.moveTime s v).clock.now = v := by simp [Machine.moveTime]
  rw [hdue, hnow]
  exact h.listLaw.jumpTo

/-- Withheld seconds taken in RUNNING keep the law (R63). -/
theorem DueLaw.takeWithheld (n : Nat) {s : State} (h : DueLaw s) (ha : s.active = true) :
    DueLaw (takeWithheld n s) := by
  induction n generalizing s with
  | zero => exact h
  | succ n ih =>
    refine ih (DueLaw.secondAdvance ?_ (by exact ha)) (by simpa [State.active] using ha)
    exact h.of_eq (fun _ => rfl) rfl rfl rfl rfl rfl rfl

theorem DueLaw.takePendingSet {s : State} (h : DueLaw s) : DueLaw (takePendingSet s) := by
  unfold Machine.takePendingSet
  split
  · refine DueLaw.moveTime ?_ _
    exact h.of_eq (fun _ => rfl) rfl rfl rfl rfl rfl rfl
  · exact h

end Sys2Proof.Machine
end

section
namespace Sys2Proof.Machine

/-! ### The cache and the Due List while the tables are read (R37, R123, R178) -/

/-- What agrees in all that the law reads keeps the law of the cache. -/
theorem CacheLaw.still {s t : State} (h : CacheLaw s) (k : Still s t) : CacheLaw t :=
  h.of_eq k.entries k.waitList k.cache fun p => by rw [k.scan]

theorem DueLaw.still {s t : State} (h : DueLaw s) (hc : CacheLaw t) (k : Still s t) : DueLaw t :=
  h.of_kept hc (.of_entries k.entries) k.seats k.holds k.due k.now k.part k.posted

/-- The laws while the tables are read, when the showings below `a` and the notices below `b` have been: no hold is
live, a showing not yet read is VACANT, and the posted notices have been read, each posted once. -/
structure TablesRead (s : State) (a b : Nat) : Prop where
  cache : CacheLaw s
  due : DueLaw s
  building : s.rebuilding = true
  holds : ∀ h, s.holds.get h = none
  seats : ∀ i, a ≤ i.val → (s.seats.entries.get i).phase = .vacant
  nodup : s.start.posted.Nodup
  posted : ∀ n ∈ s.start.posted, n.val < b

theorem TablesRead.still {s t : State} {a b : Nat} (h : TablesRead s a b) (k : Still s t) : TablesRead t a b where
  cache := h.cache.still k
  due := h.due.still (h.cache.still k) k
  building := by simpa only [State.rebuilding, k.part] using h.building
  holds := k.holds ▸ h.holds
  seats := k.seats ▸ h.seats
  nodup := k.posted ▸ h.nodup
  posted := k.posted ▸ h.posted

/-- More may count as read. -/
theorem TablesRead.mono {s : State} {a b a' b' : Nat} (h : TablesRead s a b) (ha : a ≤ a') (hb : b ≤ b') :
    TablesRead s a' b' :=
  ⟨h.cache, h.due, h.building, h.holds, fun i hi => h.seats i (ha.trans hi), h.nodup,
    fun n hn => (h.posted n hn).trans_le hb⟩

/-! #### Showings -/

/-- The state in which a build has put an entry in a showing's place expects what `expectPhase` says. -/
theorem expects_placeSeat {s u : State} (i : ShowingIx) (e : Seat) (hs : u.seats = s.seats)
    (hn : u.notices = s.notices) (hp : u.part = s.part) (hst : u.start = s.start) (k : DueKey) :
    expects (placeSeat u i e) k = expectPhase s i (passesGate e.phase) u.holds k := by
  cases k with
  | phase j =>
    by_cases hj : j = i
    · simp [expects_phase, expectPhase, placeSeat_entries, hj]
    · simp [expects_phase, expectPhase, placeSeat_entries, hj, hs]
  | hold g => simp [expects_hold, expectPhase]
  | notice n => exact expects_notice_congr (by simpa using hn) (by simp [State.rebuilding, hp]) (by simp [hst]) n

/-- An entry that a build puts in the place of a VACANT one, with the PHASE entry of its phase, keeps the law. -/
theorem DueLaw.placeSeat_enterPhase {s : State} (h : DueLaw s) (i : ShowingIx) (e : Seat) (p : Phase) :
    DueLaw (placeSeat (enterPhase s i e p).1 i (enterPhase s i e p).2) :=
  DueListLaw.toDueLaw h (by simpa using h.listLaw.enterPhase i (fun _ _ => rfl) e p)
    (expects_placeSeat i _ (by simp) (by simp) (by simp) (by simp)) (by simp) (by simp)

/-- An entry that does not pass the gate, put in the place of one that does not, keeps the law. -/
theorem DueLaw.placeSeat_quiet {s : State} (h : DueLaw s) (i : ShowingIx) (e : Seat) (he : passesGate e.phase = false)
    (hi : passesGate (s.seats.entries.get i).phase = false) : DueLaw (placeSeat s i e) := by
  refine DueListLaw.toDueLaw h (by simpa using h.listLaw) (fun k => ?_) (by simp) (by simp)
  rw [expects_placeSeat i e rfl rfl rfl rfl, he]
  cases k with
  | phase j =>
    by_cases hj : j = i
    · simp [expectPhase, expects_phase, hj, hi]
    · simp [expectPhase, hj]
  | hold g => rfl
  | notice n => rfl

theorem DueLaw.setRev {s : State} (h : DueLaw s) (r : RecordId) (v : Byte) : DueLaw (setRev s r v) :=
  h.of_eq (by simp) (by simp) (by simp) (by simp) (by simp) (by simp [State.rebuilding]) (by simp)

/-- A showing built in the place of a VACANT one keeps the law (R37). -/
theorem DueLaw.buildShowing {s : State} (h : DueLaw s) (i : ShowingIx) (bs : List Byte)
    (hi : (s.seats.entries.get i).phase = .vacant) : DueLaw (buildShowing s i bs) := by
  have hgate : passesGate (s.seats.entries.get i).phase = false := by rw [hi]; rfl
  unfold Machine.buildShowing
  dsimp only
  split
  · exact (h.raise _ _ _).placeSeat_quiet i _ rfl (by simpa using hgate)
  · split
    · exact h.placeSeat_quiet i _ rfl hgate
    · have h1 : ∀ b : Prop, [Decidable b] → ∀ x y, DueLaw (if b then Machine.raise s .showingRefused x y else s) ∧
          passesGate ((if b then Machine.raise s .showingRefused x y else s).seats.entries.get i).phase = false :=
        fun b _ x y => by
          split
          · exact ⟨h.raise _ _ _, by simpa using hgate⟩
          · exact ⟨h, hgate⟩
      split
      · exact (h1 _ _ _).1.placeSeat_quiet i _ rfl (h1 _ _ _).2
      · exact (h1 _ _ _).1.placeSeat_enterPhase i _ _

theorem buildShowingAt_seats_ne (s : State) {i j : ShowingIx} (hj : j ≠ i) (x : Option (List Byte)) :
    (buildShowingAt s i x).seats.entries.get j = s.seats.entries.get j := by
  unfold buildShowingAt buildShowing buildShowingFault
  dsimp only
  repeat' split
  all_goals simp [placeSeat_entries, hj]

/-- A phase entered makes no hold live. -/
theorem enterPhase_noHold {s : State} (h : ∀ g, s.holds.get g = none) (i : ShowingIx) (e : Seat) (p : Phase)
    (g : HoldIx) : (enterPhase s i e p).1.holds.get g = none := by
  rw [enterPhase_holds]
  split
  · simp [h g]
  · exact h g

theorem buildShowingAt_noHold {s : State} (h : ∀ g, s.holds.get g = none) (i : ShowingIx) (x : Option (List Byte))
    (g : HoldIx) : (buildShowingAt s i x).holds.get g = none := by
  unfold buildShowingAt buildShowing buildShowingFault
  dsimp only
  repeat' split
  case' h_1.isFalse.isFalse.isFalse.isTrue | h_1.isFalse.isFalse.isFalse.isFalse =>
    rw [(placeSeat_keeps _ _ _).2.2.2.2.2.2.2.2.2.2.1]
    refine enterPhase_noHold (fun g => ?_) _ _ _ g
  all_goals simp [h]

/-- The next showing is read (R37, R178). -/
theorem TablesRead.showing {s : State} {b : Nat} (i : ShowingIx) (h : TablesRead s i.val b)
    (x : Option (List Byte)) : TablesRead (buildShowingAt s i x) (i.val + 1) b where
  cache := h.cache.of_eq (by simp) (by simp) (by simp) (fun p => by simp)
  due := by
    have hi := h.seats i le_rfl
    unfold buildShowingAt
    split
    · exact (h.due.setRev _ _).buildShowing i _ (by simpa using hi)
    · exact (h.due.setRev _ _).placeSeat_quiet i _ rfl (by simp [hi, passesGate])
  building := by simpa [State.rebuilding] using h.building
  holds := buildShowingAt_noHold h.holds i x
  seats j hj := by
    rw [buildShowingAt_seats_ne s (by rintro rfl; omega) x]
    exact h.seats j (by omega)
  nodup := by simpa using h.nodup
  posted := by simpa using h.posted

/-! #### Notices -/

/-- What a POSTED notice record does when it is built: the notice takes its fields, IDLE as it was, has its
NOTICE_EXPIRE entry placed, and is posted (R123). -/
structure NoticeBuilt (s t : State) (n : NoticeIx) (f : NoticeFields) : Prop where
  lifetime : f.lifetime < 65536
  notices : t.notices = (takeFields s n f).notices
  due : t.due = if f.lifetime = 0 then s.due else
    s.due.insert s.clock.now { key := .notice n, target := none, time := after s.clock.now f.lifetime }
  posted : t.start.posted = s.start.posted ++ [n]

/-- A notice record as read: a refused or WITHDRAWN one changes nothing here, and a POSTED one is built (R123). -/
theorem buildNoticeAt_cases (s : State) (n : NoticeIx) (x : Option (List Byte)) :
    Still s (buildNoticeAt s n x) ∨ ∃ f, NoticeBuilt s (buildNoticeAt s n x) n f := by
  unfold buildNoticeAt
  split
  · next bs =>
    unfold buildNotice
    dsimp only
    split
    · exact .inl (by constructor <;> simp)
    · split
      · exact .inl (by constructor <;> simp)
      · refine .inr ⟨noticeFields (noticeRec bs), u16_lt bs 56, ?_, ?_, ?_⟩
        · split <;> simp [takeFields, insertDue]
        · change State.due (if (noticeRec bs).lifetime = 0 then _ else _) = if (noticeRec bs).lifetime = 0 then _ else _
          split <;> simp [takeFields, insertDue, noticeFields]
        · split <;> simp [takeFields, insertDue]
  · exact .inl (by constructor <;> simp)

/-- While the tables are read, a notice is expected to expire when it is posted and has a lifetime. -/
theorem expects_notice_building {s : State} (hs : s.rebuilding = true) (n : NoticeIx) :
    expects s (.notice n) = (decide (n ∈ s.start.posted) && (s.notices.entries.get n).fields.lifetime != 0) := by
  simp [expects, hs]

/-- The next notice is read (R123, R178). -/
theorem TablesRead.notice {s : State} {a : Nat} (n : NoticeIx) (h : TablesRead s a n.val)
    (hidle : ∀ m, (s.notices.entries.get m).state = .idle) (x : Option (List Byte)) :
    TablesRead (buildNoticeAt s n x) a (n.val + 1) ∧
      ∀ m, ((buildNoticeAt s n x).notices.entries.get m).state = .idle := by
  rcases buildNoticeAt_cases s n x with k | ⟨f, hf⟩
  · refine ⟨(h.still k).mono le_rfl (Nat.le_succ _), fun m => ?_⟩
    rw [k.entries]
    exact hidle m
  have hnot : n ∉ s.start.posted := fun hn => absurd (h.posted n hn) (lt_irrefl _)
  have hentries : ∀ m, (buildNoticeAt s n x).notices.entries.get m =
      if m = n then { state := .idle, fields := f, seq := s.notices.counter + 1, entries := [] }
      else s.notices.entries.get m := fun m => by rw [hf.notices, takeFields_entries]
  have hcache : CacheLaw (buildNoticeAt s n x) :=
    (h.cache.takeFields n f (hidle n)).of_eq (by rw [hf.notices]) (by rw [hf.notices]) (by rw [hf.notices])
      fun p => by simp [takeFields]
  have hbuilding : (buildNoticeAt s n x).rebuilding = true := by simpa [State.rebuilding] using h.building
  have hself : expects (buildNoticeAt s n x) (.notice n) = (f.lifetime != 0) := by
    simp [expects_notice_building hbuilding, hf.posted, hentries]
  have hold : expects s (.notice n) = false := by simp [expects_notice_building h.building, hnot]
  have hother : ∀ m, m ≠ n → expects (buildNoticeAt s n x) (.notice m) = expects s (.notice m) := fun m hm => by
    simp [expects_notice_building hbuilding, expects_notice_building h.building, hf.posted, hentries, hm]
  have hlist : DueListLaw (buildNoticeAt s n x).due (buildNoticeAt s n x).clock.now
      (expects (buildNoticeAt s n x)) := by
    rw [hf.due, (buildNoticeAt_keeps s n x).2.2.2.2.2.2.2.2.2.2.1]
    split
    · next hz =>
      refine h.due.listLaw.congr fun k => ?_
      cases k with
      | phase i => simp [expects_phase]
      | hold g => simp [expects_hold]
      | notice m => by_cases e : m = n <;> simp [e, hself, hold, hother, hz]
    · next hz =>
      have hlt := hf.lifetime
      refine (h.due.listLaw.insert { key := .notice n, target := none, time := after s.clock.now f.lifetime }
        (passed_after (by omega) (by omega)) (by simp)).congr fun k => ?_
      cases k with
      | phase i => simp [expects_phase]
      | hold g => simp [expects_hold]
      | notice m => by_cases e : m = n <;> simp [e, hself, hother, hz]
  refine ⟨⟨hcache, hlist.dueLaw (fun m => ?_) fun m hm => (hcache.waits.2 m).mp hm, hbuilding, by simpa using h.holds,
    by simpa using h.seats, ?_, fun m hm => ?_⟩, fun m => ?_⟩
  · rw [hentries]
    split
    · exact hf.lifetime
    · exact h.due.lifetimes m
  · rw [hf.posted]
    exact List.nodup_append.mpr ⟨h.nodup, by simp, fun y hy z hz => by
      rw [List.mem_singleton] at hz
      exact fun e => hnot (hz ▸ e ▸ hy)⟩
  · rw [hf.posted, List.mem_append, List.mem_singleton] at hm
    rcases hm with hm | rfl
    · exact (h.posted m hm).trans (Nat.lt_succ_self _)
    · exact Nat.lt_succ_self _
  · rw [hentries]
    split
    · rfl
    · exact hidle m

/-- The last notice read, the posted notices enter their states (R123). -/
theorem TablesRead.finishNotices {s : State} {a b : Nat} (h : TablesRead s a b)
    (hidle : ∀ m, (s.notices.entries.get m).state = .idle) :
    TablesRead (finishNotices s) a b ∧
      ∀ n, ((Machine.finishNotices s).notices.entries.get n).state ≠ .idle ↔ n ∈ s.start.posted := by
  obtain ⟨hcache, hent⟩ := h.cache.finishNotices h.nodup hidle
  have hbuilding : (Machine.finishNotices s).rebuilding = true := by simpa [State.rebuilding] using h.building
  refine ⟨⟨hcache, ?_, hbuilding, by simpa using h.holds, by simpa using h.seats, by simpa using h.nodup,
    by simpa using h.posted⟩, fun n => by rw [(hent n).2]; simp [hidle n]⟩
  refine DueListLaw.dueLaw ?_ (fun m => by rw [(hent m).1]; exact h.due.lifetimes m) fun m hm =>
    (hcache.waits.2 m).mp hm
  simp only [finishNotices_keeps]
  refine h.due.listLaw.congr fun k => ?_
  cases k with
  | phase i => simp [expects_phase]
  | hold g => simp [expects_hold]
  | notice m => simp [expects_notice_building hbuilding, expects_notice_building h.building, (hent m).1]

end Sys2Proof.Machine
end

section
namespace Sys2Proof.Machine

/-! ### The build reads in table order (R178) -/

theorem buildItem_showings {r : Bool} {d k : Nat} (h : buildItem r d = some (.showings k)) : d = k ∧ d < 128 := by
  unfold buildItem laterItem at h
  repeat' split at h
  all_goals cases h
  exact ⟨rfl, ‹_›⟩

theorem buildItem_notices {r : Bool} {d k : Nat} (h : buildItem r d = some (.notices k)) :
    d = 240 + journalReads r + k ∧ k < 16 := by
  unfold buildItem laterItem at h
  repeat' split at h
  all_goals cases h
  omega

/-- A read of another table is not the last of the notices. -/
theorem buildItem_other {r : Bool} {d : Nat} {b : BuildItem} (h : buildItem r d = some b) (hb : ∀ k, b ≠ .notices k) :
    d + 1 ≠ 256 + journalReads r := by
  rintro hd
  refine hb 15 ?_
  have h1 : ¬d < 128 := by omega
  have h2 : ¬d - 128 < journalReads r := by omega
  have h3 : d - 128 - journalReads r = 127 := by omega
  simpa [buildItem, h1, h2, h3, laterItem] using h.symm

theorem firstNoticeRead_eq (s : State) : firstNoticeRead s = 240 + journalReads s.start.resume := rfl

/-! ### A build read taken -/

theorem Still.refl (s : State) : Still s s := by constructor <;> rfl

theorem Still.trans {s t u : State} (h : Still s t) (k : Still t u) : Still s u where
  resetN := k.resetN.trans h.resetN
  part := k.part.trans h.part
  stage := k.stage.trans h.stage
  resume := k.resume.trans h.resume
  done := k.done.trans h.done
  posted := k.posted.trans h.posted
  seats := k.seats.trans h.seats
  holds := k.holds.trans h.holds
  now := k.now.trans h.now
  due := k.due.trans h.due
  entries := k.entries.trans h.entries
  waitList := k.waitList.trans h.waitList
  cache := k.cache.trans h.cache
  scan := k.scan.trans h.scan

/-- A block of records that these laws do not read. -/
theorem buildBlock_still (f : State → Nat → Option (List Byte) → State) (h : ∀ t j r, Still t (f t j r)) (s : State)
    (n c : Nat) (x : ReadResult) : Still s (buildBlock s n c x f) :=
  foldl_preserves (Still s) _ _ (fun t j _ ht => ht.trans (h t j _)) s (.refl s)

/-- A read of a table that these laws do not read. -/
theorem buildRead_still (s : State) (b : BuildItem) (x : ReadResult) (hs : ∀ k, b ≠ .showings k)
    (hn : ∀ k, b ≠ .notices k) : Still s (buildRead s b x) := by
  cases b with
  | showings k => exact absurd rfl (hs k)
  | notices k => exact absurd rfl (hn k)
  | journal k => constructor <;> simp [buildRead]
  | layouts k =>
    simp only [buildRead, buildLayouts]
    split <;> constructor <;> simp
  | titles k => exact buildBlock_still _ (fun t j r => by constructor <;> simp) s _ _ x
  | catalog k => exact buildBlock_still _ (fun t j r => by constructor <;> simp) s _ _ x
  | rotation k => exact buildBlock_still _ (fun t j r => by constructor <;> simp) s _ _ x

/-- Two records to a block. -/
theorem buildBlock_two (s : State) (n : Nat) (x : ReadResult) (f : State → Nat → Option (List Byte) → State) :
    buildBlock s n 2 x f = f (f s 0 (x.data?.map fun d => slice d (n * 0) n)) 1
      (x.data?.map fun d => slice d (n * 1) n) := rfl

/-- The two showings of a block are read. -/
theorem TablesRead.showings {s : State} {k b : Nat} (hk : k < 128) (h : TablesRead s (2 * k) b) (x : ReadResult) :
    TablesRead (buildRead s (.showings k) x) (2 * (k + 1)) b := by
  have h0 : (Fin.ofNat 256 (2 * k + 0)).val = 2 * k := by simp; omega
  have h1 : (Fin.ofNat 256 (2 * k + 1)).val = 2 * k + 1 := by simp; omega
  simp only [buildRead, buildBlock_two]
  have hs := TablesRead.showing (Fin.ofNat 256 (2 * k + 0)) (by rw [h0]; exact h)
    (x.data?.map fun d => slice d (64 * 0) 64)
  rw [h0, ← h1] at hs
  have ht := hs.showing _ (x.data?.map fun d => slice d (64 * 1) 64)
  rw [h1] at ht
  exact ht

/-- The two notices of a block are read, and after the last of them the posted notices enter their states (R123). -/
theorem TablesRead.notices {s : State} {a k : Nat} (hk : k < 16) (h : TablesRead s a (2 * k))
    (hidle : ∀ m, (s.notices.entries.get m).state = .idle) (x : ReadResult) :
    TablesRead (buildRead s (.notices k) x) a (2 * (k + 1)) ∧
      ∀ n, ((buildRead s (.notices k) x).notices.entries.get n).state ≠ .idle ↔
        n ∈ (buildRead s (.notices k) x).start.posted ∧ k = 15 := by
  have h0 : (Fin.ofNat 32 (2 * k + 0)).val = 2 * k := by simp; omega
  have h1 : (Fin.ofNat 32 (2 * k + 1)).val = 2 * k + 1 := by simp; omega
  simp only [buildRead, buildNotices, buildBlock_two]
  obtain ⟨hs, hsi⟩ := TablesRead.notice (Fin.ofNat 32 (2 * k + 0)) (by rw [h0]; exact h) hidle
    (x.data?.map fun d => slice d (64 * 0) 64)
  rw [h0, ← h1] at hs
  obtain ⟨ht, hti⟩ := hs.notice _ hsi (x.data?.map fun d => slice d (64 * 1) 64)
  rw [h1] at ht
  split
  · next hlast =>
    obtain ⟨hf, hfe⟩ := ht.finishNotices hti
    exact ⟨hf, fun n => by rw [hfe n]; simp [hlast]⟩
  · next hlast => exact ⟨ht, fun n => iff_of_false (fun hne => hne (hti n)) fun hc => hlast hc.2⟩

/-- What the build's law says is what `TablesRead` says of the showings and notices read so far. -/
theorem BuildLaw.tablesRead {s : State} (h : BuildLaw s) (hc : CacheLaw s) (hd : DueLaw s) (hr : reading s) :
    TablesRead s (2 * s.start.buildDone) (2 * (s.start.buildDone - firstNoticeRead s)) :=
  ⟨hc, hd, hr.1, h.holds, h.seats, h.posted.1, h.posted.2⟩

theorem TablesRead.buildLaw {s : State} {a b : Nat} (h : TablesRead s a b) (ha : a = 2 * s.start.buildDone)
    (hb : b ≤ 2 * (s.start.buildDone - firstNoticeRead s))
    (he : ∀ n, (s.notices.entries.get n).state ≠ .idle ↔
      n ∈ s.start.posted ∧ firstNoticeRead s + 16 ≤ s.start.buildDone) : BuildLaw s :=
  ⟨h.holds, ha ▸ h.seats, ⟨h.nodup, fun n hn => (h.posted n hn).trans_le hb⟩, he⟩

/-- A build read taken in its turn keeps the laws (R37, R123, R178). -/
theorem BuildLaw.read {s : State} (h : BuildLaw s) (hc : CacheLaw s) (hd : DueLaw s) (hr : reading s) {b : BuildItem}
    (item : buildItem s.start.resume s.start.buildDone = some b) (l : List (Nat × ReadResult)) (x : ReadResult) :
    ∀ t, t = buildRead { s with start := { s.start with buildDone := s.start.buildDone + 1, buildGot := l } } b x →
      CacheLaw t ∧ DueLaw t ∧ BuildLaw t := by
  rintro t rfl
  generalize hu : ({ s with start := { s.start with buildDone := s.start.buildDone + 1, buildGot := l } } : State) = u
  have hread : TablesRead u (2 * s.start.buildDone) (2 * (s.start.buildDone - firstNoticeRead s)) := by
    have := h.tablesRead hc hd hr
    subst hu
    exact ⟨this.cache.of_eq rfl rfl rfl fun _ => rfl, this.due.of_eq (fun _ => rfl) rfl rfl rfl rfl rfl rfl,
      this.building, this.holds, this.seats, this.nodup, this.posted⟩
  have hentered : ∀ n, (u.notices.entries.get n).state ≠ .idle ↔
      n ∈ u.start.posted ∧ firstNoticeRead s + 16 ≤ s.start.buildDone := by
    subst hu
    exact h.entered
  obtain ⟨-, hresume, hdone⟩ := buildRead_start u b x
  have hdone : (buildRead u b x).start.buildDone = s.start.buildDone + 1 := by rw [hdone, ← hu]
  have hfirst : firstNoticeRead (buildRead u b x) = firstNoticeRead s := by
    rw [firstNoticeRead_eq, hresume, ← hu]; rfl
  have key : ∀ {a b' : Nat}, TablesRead (buildRead u b x) a b' → a = 2 * (s.start.buildDone + 1) →
      b' ≤ 2 * (s.start.buildDone + 1 - firstNoticeRead s) →
      (∀ n, ((buildRead u b x).notices.entries.get n).state ≠ .idle ↔
        n ∈ (buildRead u b x).start.posted ∧ firstNoticeRead s + 16 ≤ s.start.buildDone + 1) →
      CacheLaw (buildRead u b x) ∧ DueLaw (buildRead u b x) ∧ BuildLaw (buildRead u b x) := fun ht ha hb he =>
    ⟨ht.cache, ht.due, ht.buildLaw (by rw [hdone]; exact ha) (by rw [hdone, hfirst]; exact hb)
      fun n => by rw [he n, hdone, hfirst]⟩
  rw [firstNoticeRead_eq] at *
  by_cases hs : ∃ k, b = .showings k
  · obtain ⟨k, rfl⟩ := hs
    obtain ⟨hk, hlt⟩ := buildItem_showings item
    rw [hk] at hread
    refine key (hread.showings (by omega) x) (by omega) (by omega) fun n => ?_
    have hkeep : (buildRead u (.showings k) x).notices = u.notices := by
      simp [buildRead, buildBlock_keeps State.notices]
    rw [hkeep, hentered n]
    exact iff_of_false (by omega) (by omega)
  by_cases hn : ∃ k, b = .notices k
  · obtain ⟨k, rfl⟩ := hn
    obtain ⟨hk, hlt⟩ := buildItem_notices item
    have hidle : ∀ m, (u.notices.entries.get m).state = .idle := fun m => by
      by_contra hne
      have := ((hentered m).mp hne).2
      omega
    have hk2 : s.start.buildDone - (240 + journalReads s.start.resume) = k := by omega
    rw [hk2] at hread
    obtain ⟨ht, he⟩ := hread.notices hlt hidle x
    refine key (ht.mono (a' := 2 * (s.start.buildDone + 1)) (by omega) le_rfl) rfl (by omega) fun n => ?_
    rw [he n]
    refine and_congr_right fun _ => ?_
    omega
  · have hs' : ∀ k, b ≠ .showings k := fun k e => hs ⟨k, e⟩
    have hn' : ∀ k, b ≠ .notices k := fun k e => hn ⟨k, e⟩
    have hst := buildRead_still u b x hs' hn'
    have hne := buildItem_other item hn'
    refine key ((hread.still hst).mono (a' := 2 * (s.start.buildDone + 1)) (by omega) le_rfl) rfl (by omega)
      fun n => ?_
    rw [hst.entries, hst.posted, hentered n]
    refine and_congr_right fun _ => ?_
    omega

end Sys2Proof.Machine
end

section
namespace Sys2Proof.Machine

/-! ### The standing laws through every move (R37, R65, R116, R123, R178, R179, R181) -/

/-- No event is expected and none is listed: no hold is live, every showing is VACANT and every notice IDLE. -/
structure NothingPlaced (s : State) : Prop where
  list : s.due.list = []
  batch : s.due.batch = []
  holds : ∀ h, s.holds.get h = none
  seats : ∀ i, (s.seats.entries.get i).phase = .vacant
  idle : ∀ n, (s.notices.entries.get n).state = .idle

/-- With nothing placed, and nothing posted by a build, the law of the Due List holds. -/
theorem NothingPlaced.dueLaw {s : State} (h : NothingPlaced s) (hc : CacheLaw s)
    (hl : ∀ n, (s.notices.entries.get n).fields.lifetime < 65536) (hp : s.rebuilding = true → s.start.posted = []) :
    DueLaw s := by
  refine DueListLaw.dueLaw ?_ hl fun n hn => (hc.waits.2 n).mp hn
  have hd : ∀ d : DueList, d.list = [] → d.batch = [] → d = .empty := by
    rintro ⟨l, b⟩ rfl rfl
    rfl
  rw [hd _ h.list h.batch]
  refine DueListLaw.of_empty _ fun k => ?_
  cases k with
  | phase i => rw [expects_phase, h.seats i]; rfl
  | hold g => rw [expects_hold, h.holds g]; rfl
  | notice n =>
    cases hr : s.rebuilding with
    | true => simp [expects_notice_building hr, hp hr]
    | false => simp [expects_notice hr, h.idle n]

theorem StandingLaws.nothingPlaced {s : State} (h : StandingLaws s) (hf : s.resetN = false ∨ s.part = .loading) :
    NothingPlaced s := by
  obtain ⟨-, -, hlist, hbatch, hholds, hseats, hidle⟩ := h.fresh hf
  exact ⟨hlist, hbatch, hholds, hseats, hidle⟩

/-- The standing laws with nothing placed, in LOADING with RESET_N high. -/
theorem NothingPlaced.standing {s : State} (h : NothingPlaced s) (hc : CacheLaw s)
    (hl : ∀ n, (s.notices.entries.get n).fields.lifetime < 65536) (hp : s.part = .loading) : StandingLaws s where
  fresh _ := ⟨hc, h.dueLaw hc hl (by simp [State.rebuilding, hp]), h.list, h.batch, h.holds, h.seats, h.idle⟩
  build hb := by simp [reading, State.rebuilding, hp] at hb
  run hr := by simp [State.active, hp] at hr

/-- The standing laws at the start of a build: nothing is placed and nothing read (R178). -/
theorem NothingPlaced.beginBuild {s : State} (h : NothingPlaced s) (hc : CacheLaw s)
    (hl : ∀ n, (s.notices.entries.get n).fields.lifetime < 65536) (high : s.resetN = true)
    (hp : s.rebuilding = true) (resume : Bool) : StandingLaws (beginBuild s resume) := by
  have hpart : s.part = .building ∨ s.part = .restarting := by simpa [State.rebuilding] using hp
  have hc' : CacheLaw (Machine.beginBuild s resume) := hc.of_eq rfl rfl rfl fun _ => rfl
  have h' : NothingPlaced (Machine.beginBuild s resume) := ⟨h.list, h.batch, h.holds, h.seats, h.idle⟩
  refine ⟨fun hf => ?_, fun _ => ⟨hc', h'.dueLaw hc' hl fun _ => rfl, h'.holds, fun i _ => h'.seats i,
    ⟨List.nodup_nil, fun n hn => absurd hn List.not_mem_nil⟩, fun n => ?_⟩, fun ha => ?_⟩
  · rcases hf with hf | hf
    · exact absurd (high.symm.trans hf) nofun
    · have hf : s.part = .loading := hf
      rcases hpart with e | e <;> rw [e] at hf <;> cases hf
  · exact iff_of_false (fun hne => hne (h'.idle n)) fun hn => absurd hn.1 List.not_mem_nil
  · have ha : s.active = true := ha
    exact absurd ((not_rebuilding_of_active ha).symm.trans hp) nofun

/-- The standing laws in RUNNING and QUIET. -/
theorem StandingLaws.of_active {t : State} (high : t.resetN = true) (ha : t.active = true) (hc : CacheLaw t)
    (hd : DueLaw t) : StandingLaws t where
  fresh hf := by
    rcases hf with hf | hf
    · exact absurd (high.symm.trans hf) nofun
    · simp [State.active, hf] at ha
  build hb := absurd ((not_rebuilding_of_active ha).symm.trans hb.1) nofun
  run _ := ⟨hc, hd⟩

/-- In a state in which nothing is expected of the part the laws stand. -/
theorem StandingLaws.of_aside {t : State} (high : t.resetN = true)
    (hp : t.part = .transparent ∨ t.part = .restarting ∧ t.start.stage ≠ .build) : StandingLaws t where
  fresh hf := by
    rcases hf with hf | hf
    · exact absurd (high.symm.trans hf) nofun
    · rcases hp with e | ⟨e, _⟩ <;> rw [e] at hf <;> cases hf
  build hb := by
    rcases hp with e | ⟨_, e⟩
    · simp [reading, State.rebuilding, e] at hb
    · exact absurd hb.2 e
  run ha := by rcases hp with e | ⟨e, _⟩ <;> simp [State.active, e] at ha

theorem BuildLaw.still {s t : State} (h : BuildLaw s) (k : Still s t) : BuildLaw t where
  holds := k.holds ▸ h.holds
  seats := by rw [k.seats, k.done]; exact h.seats
  posted := by rw [firstNoticeRead, k.posted, k.done, k.resume]; exact h.posted
  entered n := by rw [firstNoticeRead, k.entries, k.posted, k.done, k.resume]; exact h.entered n

/-- What the laws do not read leaves them standing. -/
theorem StandingLaws.still {s t : State} (h : StandingLaws s) (k : Still s t) : StandingLaws t where
  fresh hf := by
    rw [k.resetN, k.part] at hf
    obtain ⟨hc, hd, hlist, hbatch, hholds, hseats, hidle⟩ := h.fresh hf
    refine ⟨hc.still k, hd.still (hc.still k) k, ?_, ?_, ?_, ?_, ?_⟩
    · rw [k.due]; exact hlist
    · rw [k.due]; exact hbatch
    · rw [k.holds]; exact hholds
    · rw [k.seats]; exact hseats
    · rw [k.entries]; exact hidle
  build hb := by
    obtain ⟨hc, hd, hl⟩ := h.build ⟨by simpa only [State.rebuilding, k.part] using hb.1, k.stage ▸ hb.2⟩
    exact ⟨hc.still k, hd.still (hc.still k) k, hl.still k⟩
  run ha := by
    obtain ⟨hc, hd⟩ := h.run (by simpa only [State.active, k.part] using ha)
    exact ⟨hc.still k, hd.still (hc.still k) k⟩

/-- The part held by RESET_N is the reset state but for the queues and the draws. -/
theorem held_still (s : State) : Still .reset (held s) := by constructor <;> rfl

/-- The owners' clearing at a warm restart leaves nothing placed (R181, log 14). -/
theorem clearOwners_nothingPlaced (s : State) : NothingPlaced (clearOwners s) := by
  constructor <;> simp [clearOwners, DueList.empty, SeatUnit.initial, Seat.vacant, NoticeUnit.initial, Notice.idle]

theorem clearOwners_cacheLaw (s : State) : CacheLaw (clearOwners s) :=
  cacheLaw_reset.of_eq rfl rfl rfl fun _ => rfl

theorem clearOwners_lifetimes (s : State) (n : NoticeIx) :
    ((clearOwners s).notices.entries.get n).fields.lifetime < 65536 := by
  simp [clearOwners, NoticeUnit.initial, Notice.idle]

/-- At the entry to RUNNING what was expected of the notices posted is expected of those that stand (R123, R179). -/
theorem DueLaw.running {s t : State} (h : DueLaw s) (hb : BuildLaw s) (hr : reading s)
    (last : s.start.buildDone = buildTotal s.start.resume) (ha : t.active = true) (h1 : t.seats = s.seats)
    (h2 : t.holds = s.holds) (h3 : t.due = s.due) (h4 : t.clock = s.clock) (h5 : t.notices = s.notices) : DueLaw t := by
  refine DueListLaw.toDueLaw h (h3 ▸ h.listLaw) (fun k => ?_) (by rw [h4]) h5
  cases k with
  | phase i => rw [expects_phase, h1, expects_phase]
  | hold g => rw [expects_hold, h2, expects_hold]
  | notice n =>
    have hall : firstNoticeRead s + 16 ≤ s.start.buildDone := by
      rw [last, firstNoticeRead_eq, buildTotal]
      omega
    have hn := hb.entered n
    rw [expects_notice (not_rebuilding_of_active ha), expects_notice_building hr.1, h5, Bool.eq_iff_iff,
      Bool.and_eq_true, Bool.and_eq_true, bne_iff_ne, hn, decide_eq_true_eq]
    simp [hall]

theorem enterRunning_active (s : State) : (enterRunning s).active = true := by
  simp [enterRunning, State.active]

theorem DueLaw.updateGap {s : State} (h : DueLaw s) : DueLaw (updateGap s) :=
  h.of_eq (by simp) (by simp) (by simp) (by simp) (by simp) (by simp [State.rebuilding]) (by simp)

/-- Entry to RUNNING keeps the laws (R179). -/
theorem DueLaw.enterRunning {s : State} (h : DueLaw s) (hb : BuildLaw s) (hr : reading s)
    (last : s.start.buildDone = buildTotal s.start.resume) : DueLaw (enterRunning s) := by
  unfold Machine.enterRunning
  refine DueLaw.updateGap (DueLaw.takeWithheld _ (DueLaw.takePendingSet ?_) ?_)
  · exact h.running hb hr last (by simp [State.active]) (by simp) (by simp) (by simp) (by simp) (by simp)
  · simp [State.active]

/-- A second outside BUILDING and RESTARTING leaves the laws standing (R62). -/
theorem StandingLaws.secondAdvance {s : State} (h : StandingLaws s) (high : s.resetN = true)
    (apart : s.rebuilding = false) : StandingLaws (secondAdvance s) := by
  have hpart : (Machine.secondAdvance s).part = s.part := by simp
  cases hp : s.part with
  | running | quiet =>
    have ha : s.active = true := by simp [State.active, hp]
    obtain ⟨hc, hd⟩ := h.run ha
    refine .of_active (by simpa using high) (by simp [State.active, hp]) ?_ (hd.secondAdvance ha)
    exact hc.of_eq (by simp) (by simp) (by simp) fun p => by simp
  | building | restarting => simp [State.rebuilding, hp] at apart
  | transparent => exact .of_aside (by simpa using high) (.inl (hpart.trans hp))
  | loading =>
    have hn := h.nothingPlaced (.inr hp)
    obtain ⟨hc, hd, -⟩ := h.fresh (.inr hp)
    have hdue : (Machine.secondAdvance s).due = s.due := by simp [Machine.secondAdvance, State.active, hp]
    refine NothingPlaced.standing ⟨?_, ?_, ?_, ?_, ?_⟩ ?_ ?_ (hpart.trans hp)
    · rw [hdue]; exact hn.list
    · rw [hdue]; exact hn.batch
    · simpa using hn.holds
    · simpa using hn.seats
    · simpa using hn.idle
    · exact hc.of_eq (by simp) (by simp) (by simp) fun p => by simp
    · simpa using hd.lifetimes

/-- What keeps RESET_N, the part state, the notices and the passes keeps the laws of RUNNING and QUIET, when it keeps
that of the Due List. -/
theorem StandingLaws.of_due {s t : State} (h : StandingLaws s) (ha : s.active = true) (high : s.resetN = true)
    (h1 : t.resetN = s.resetN) (h2 : t.part = s.part) (h3 : t.notices = s.notices) (h4 : t.scan = s.scan)
    (hd : DueLaw t) : StandingLaws t := by
  refine .of_active (h1.trans high) (by simpa only [State.active, h2] using ha) ?_ hd
  exact (h.run ha).1.of_eq (by rw [h3]) (by rw [h3]) (by rw [h3]) fun p => by rw [h4]

/-- What keeps RESET_N and the part state keeps the laws of RUNNING and QUIET, when it keeps both. -/
theorem StandingLaws.of_both {s t : State} (ha : s.active = true) (high : s.resetN = true)
    (h1 : t.resetN = s.resetN) (h2 : t.part = s.part) (hc : CacheLaw t) (hd : DueLaw t) : StandingLaws t :=
  .of_active (h1.trans high) (by simpa only [State.active, h2] using ha) hc hd

theorem CacheLaw.handNotice {s : State} (h : CacheLaw s) (n : NoticeIx) (bs : List Byte) :
    CacheLaw (handNotice s n bs) := by
  unfold Machine.handNotice withdrawNotice
  dsimp only
  split
  · exact h.of_eq (by simp) (by simp) (by simp) fun p => by simp
  · split
    · split
      · exact h
      · refine (CacheLaw.endNotice ?_ n).1
        exact h.of_eq rfl rfl rfl fun _ => rfl
    · exact (h.postNotice n _).1

theorem CacheLaw.expireNotice {s : State} (h : CacheLaw s) (n : NoticeIx) : CacheLaw (expireNotice (popBatch s) n) := by
  have hp : CacheLaw (popBatch s) := h.of_eq rfl rfl rfl fun _ => rfl
  unfold Machine.expireNotice
  dsimp only
  split
  · exact hp
  · exact (hp.endNotice n).1.of_eq (by simp) (by simp) (by simp) fun p => by simp

/-- Every move leaves the laws of the cache and of the Due List standing. -/
theorem Move.standing (s t : State) (h : StandingLaws s) (m : Move s t) : StandingLaws t := by
  cases m with
  | still _ k => exact h.still k
  | aside _ high part => exact .of_aside high part
  | reset => exact standingLaws_reset.still (held_still s)
  | load b low =>
    obtain ⟨hc, hd, -⟩ := h.fresh (.inl low)
    have hn := h.nothingPlaced (.inl low)
    refine NothingPlaced.standing ⟨hn.list, hn.batch, hn.holds, hn.seats, hn.idle⟩ ?_ hd.lifetimes rfl
    exact hc.of_eq rfl rfl rfl fun _ => rfl
  | accept bs r high loading =>
    obtain ⟨hc, hd, -⟩ := h.fresh (.inr loading)
    have hn := h.nothingPlaced (.inr loading)
    refine NothingPlaced.beginBuild (s := { takeValues s bs with part := .building })
      ⟨hn.list, hn.batch, hn.holds, hn.seats, hn.idle⟩ ?_ hd.lifetimes high rfl r
    exact hc.of_eq rfl rfl rfl fun _ => rfl
  | reload bs high restarting =>
    refine (clearOwners_nothingPlaced _).beginBuild (clearOwners_cacheLaw _) (clearOwners_lifetimes _) ?_ ?_ true
    · exact high
    · exact congrArg (fun p => p == PartState.building || p == .restarting) restarting
  | built l b x build high item =>
    obtain ⟨hc, hd, hb⟩ := h.build build
    have hlaws := hb.read hc hd build item l x _ rfl
    have hpart : s.part = .building ∨ s.part = .restarting := by simpa [State.rebuilding] using build.1
    refine ⟨fun hf => ?_, fun _ => hlaws, fun ha => ?_⟩
    · simp only [buildRead_keeps] at hf
      rcases hf with hf | hf
      · exact absurd (high.symm.trans hf) nofun
      · rcases hpart with e | e <;> rw [e] at hf <;> cases hf
    · simp only [State.active, buildRead_keeps] at ha
      rcases hpart with e | e <;> rw [e] at ha <;> cases ha
  | running build high last =>
    obtain ⟨hc, hd, hb⟩ := h.build build
    refine .of_active (by simpa using high) (enterRunning_active s) ?_ (hd.enterRunning hb build last)
    exact hc.of_eq (by simp) (by simp) (by simp) fun p => by simp
  | quiet active high =>
    obtain ⟨hc, hd⟩ := h.run active
    refine .of_active (t := enterQuiet s) high rfl (hc.of_eq rfl rfl rfl fun _ => rfl) ?_
    exact hd.of_eq (fun _ => rfl) rfl rfl rfl rfl (not_rebuilding_of_active active).symm rfl
  | second high apart => exact h.secondAdvance high apart
  | time active high v =>
    exact h.of_due active high (by simp) (by simp) (by simp) (by simp) ((h.run active).2.moveTime v)
  | showing active high i bs =>
    exact h.of_due active high (by simp) (by simp) (by simp) (by simp) ((h.run active).2.handShowing i bs)
  | notice active high n bs =>
    obtain ⟨hc, hd⟩ := h.run active
    exact .of_both active high (by simp) (by simp) (hc.handNotice n bs)
      (hd.handNotice hc (not_rebuilding_of_active active) n bs)
  | journal active high r =>
    exact h.of_due active high (by simp) (by simp) (by simp) (by simp) ((h.run active).2.applyJournal r)
  | phase active high i p t rest batch =>
    exact h.of_due active high (by simp) (by simp) (by simp) (by simp) ((h.run active).2.firePhase batch p)
  | hold active high g p t rest batch =>
    exact h.of_due active high (by simp) (by simp) (by simp) (by simp) ((h.run active).2.expireHold batch)
  | expiry active high n p t rest batch =>
    obtain ⟨hc, hd⟩ := h.run active
    exact .of_both active high (by simp) (by simp) (hc.expireNotice n)
      (hd.expireNotice hc (not_rebuilding_of_active active) batch)
  | glyph active high e x =>
    obtain ⟨hc, hd⟩ := h.run active
    obtain ⟨hc', hk⟩ := hc.fillEntry e x
    exact .of_both active high (by simp) (by simp) hc'
      (hd.of_kept hc' hk (by simp) (by simp) (by simp) (by simp) (by simp) (by simp))
  | scan active high p row =>
    obtain ⟨hc, hd⟩ := h.run active
    obtain ⟨hc', hk⟩ := hc.scanRead p row
    exact .of_both active high (by simp) (by simp) hc'
      (hd.of_kept hc' hk (by simp) (by simp) (by simp) (by simp) (by simp) (by simp))
  | idle active high p =>
    obtain ⟨hc, hd⟩ := h.run active
    obtain ⟨hc', hk⟩ := hc.endPass p
    exact .of_both active high (by simp) (by simp) hc'
      (hd.of_kept hc' hk (by simp) (by simp) (by simp) (by simp) (by simp) (by simp))

end Sys2Proof.Machine

open Sys2Proof.Machine in
/-- Settles O60: every move leaves the laws standing, and every step is a chain of moves. -/
theorem cacheAndDueLawsStand : Obligations.CacheAndDueLawsStand :=
  fun _ _ h hs => step_keeps_of_moves Move.standing h hs
end

section
namespace Sys2Proof.Machine

/-! ### The order of a roster (R82, R83) -/

/-- The signed distance of a showing's start from now (R83). -/
def startDistance (s : State) (i : ShowingIx) : Int := signedDistance s.clock.now (s.seats.entries.get i).start

/-- The order of R83 as a lexicographic one. -/
theorem rosterBefore_iff {s : State} {i j : ShowingIx} :
    rosterBefore s i j = true ↔
      startDistance s i < startDistance s j ∨
      (startDistance s i = startDistance s j ∧
        ((s.seats.entries.get i).hall.val < (s.seats.entries.get j).hall.val ∨
          ((s.seats.entries.get i).hall.val = (s.seats.entries.get j).hall.val ∧ i.val ≤ j.val))) := by
  simp [rosterBefore, startDistance, Fin.ext_iff]

theorem rosterBefore_total (s : State) (i j : ShowingIx) : rosterBefore s i j = true ∨ rosterBefore s j i = true := by
  rw [rosterBefore_iff, rosterBefore_iff]
  omega

theorem rosterBefore_trans (s : State) (i j k : ShowingIx) (h : rosterBefore s i j = true)
    (h' : rosterBefore s j k = true) : rosterBefore s i k = true := by
  rw [rosterBefore_iff] at *
  omega

/-- The showings eligible for a panel's roster, all of them, in the order of R83. -/
def wholeRoster (s : State) (p : PanelIx) : List ShowingIx :=
  sortBy (rosterBefore s) ((List.finRange 256).filter fun i =>
    eligible (s.roster.layouts.get p).filter (s.seats.entries.get i))

theorem rosterOf_eq (s : State) (p : PanelIx) : rosterOf s p = (wholeRoster s p).take 16 := rfl

theorem mem_wholeRoster {s : State} {p : PanelIx} {i : ShowingIx} :
    i ∈ wholeRoster s p ↔ eligible (s.roster.layouts.get p).filter (s.seats.entries.get i) = true := by
  simp [wholeRoster]

/-- The whole roster stands in the order of R83, no showing twice. -/
theorem pairwise_wholeRoster (s : State) (p : PanelIx) :
    (wholeRoster s p).Pairwise fun i j => rosterBefore s i j = true ∧ i ≠ j :=
  (pairwise_sortBy (rosterBefore_total s) (rosterBefore_trans s) _).and
    (nodup_sortBy _ ((List.nodup_finRange 256).filter _))

/-- A member beyond a list's first `n` stands behind all of them, and there are `n`. -/
theorem rel_of_not_mem_take {α : Type} {R : α → α → Prop} {l : List α} (h : l.Pairwise R) (n : Nat) {x : α} (hx : x ∈ l)
    (hn : x ∉ l.take n) : (l.take n).length = n ∧ ∀ y ∈ l.take n, R y x := by
  rw [← List.take_append_drop n l] at h hx
  have hd : x ∈ l.drop n := (List.mem_append.mp hx).resolve_left hn
  have hlt : n < l.length := by
    by_contra hle
    rw [List.drop_eq_nil_of_le (by omega)] at hd
    exact absurd hd List.not_mem_nil
  exact ⟨by rw [List.length_take]; omega, fun y hy => (List.pairwise_append.mp h).2.2 y hy x hd⟩

theorem eligible_iff {flt : Filter} {e : Seat} : eligible flt e = true ↔
    (e.phase = .onSale ∨ e.phase = .lastCall ∨ (e.phase = .started ∧ flt.inclStarted = true)) ∧
      flt.halls.getLsbD e.hall.val = true ∧ (0 < e.left ∨ flt.skipSoldOut = false) := by
  simp [eligible, or_assoc, and_assoc]

/-- The signed distance as a number of seconds (R64, R83). -/
theorem signedDistance_eq (now t : LobbyTime) :
    signedDistance now t =
      if distance now t < 524288 then (distance now t : Int) else (distance now t : Int) - 1048576 := by
  unfold signedDistance distance
  rw [BitVec.toInt_eq_toNat_cond]
  split <;> split <;> omega

/-- Strict precedence in a roster (R83). -/
theorem rosterBefore_strict {s : State} {i j : ShowingIx} (h : rosterBefore s i j = true ∧ i ≠ j) :
    startDistance s i < startDistance s j ∨
      (startDistance s i = startDistance s j ∧
        ((s.seats.entries.get i).hall < (s.seats.entries.get j).hall ∨
          ((s.seats.entries.get i).hall = (s.seats.entries.get j).hall ∧ i < j))) := by
  obtain ⟨hb, hne⟩ := h
  rw [rosterBefore_iff] at hb
  have hne : i.val ≠ j.val := fun e => hne (Fin.ext e)
  simp only [Fin.lt_def, Fin.ext_iff]
  omega

/-! ### The assignment of roster lines (R84) -/

theorem isRoster_iff {k : LineKind} : k.isRoster = true ↔ k = .rosterWide ∨ k = .rosterNarrow := by
  cases k <;> simp [LineKind.isRoster]

theorem assignRoster_assign (s : State) (p q : PanelIx) (l : LineIx) :
    lineAt (assignRoster s p).roster.assign q l =
      if q = p ∧ (s.line p l).kind.isRoster = true then (rosterOf s p)[(s.line p l).rank]?
      else lineAt s.roster.assign q l := by
  unfold assignRoster lineAt
  by_cases hq : q = p
  · subst hq
    by_cases hr : (s.line q l).kind.isRoster = true <;> simp [hr]
  · simp [hq]

theorem assignRoster_shown (s : State) (p q : PanelIx) (l : LineIx) :
    lineAt (assignRoster s p).roster.shown q l =
      if lineAt (assignRoster s p).roster.assign q l = lineAt s.roster.assign q l then lineAt s.roster.shown q l
      else none := by
  by_cases hq : q = p
  · subst hq
    simp [assignRoster, lineAt]
  · rw [assignRoster_assign]
    simp [assignRoster, lineAt, hq]

end Sys2Proof.Machine
end

section
namespace Sys2Proof.Machine

/-! ### Texts and figures (R87 to R90) -/

/-- Numbers as codes. -/
def codes (l : List Nat) : List Byte := l.map (BitVec.ofNat 8)

@[simp] theorem length_codes (l : List Nat) : (codes l).length = l.length := List.length_map _

theorem clockText_eq (origin : Nat) (t : LobbyTime) : clockText origin t =
    let m := (origin + t.toNat / 60) % 1440
    codes [48 + m / 600, 48 + m / 60 % 10, 58, 48 + m % 60 / 10, 48 + m % 10] := by
  unfold clockText minuteOfDay
  have hm : (origin + t.toNat / 60) % 1440 < 1440 := Nat.mod_lt _ (by omega)
  generalize (origin + t.toNat / 60) % 1440 = m at hm
  have h1 : m / 60 / 10 % 10 = m / 600 := by omega
  have h2 : m % 60 / 10 % 10 = m % 60 / 10 := by omega
  have h3 : m % 60 % 10 = m % 10 := by omega
  simp [twoDigits, digit, codes, h1, h2, h3]

@[simp] theorem length_clockText (origin : Nat) (t : LobbyTime) : (clockText origin t).length = 5 := rfl

/-- The codes of a number's decimal digits, the last three of them. -/
def digitCodes (v : Nat) : List Nat :=
  if v < 10 then [48 + v] else if v < 100 then [48 + v / 10, 48 + v % 10]
    else [48 + v / 100 % 10, 48 + v / 10 % 10, 48 + v % 10]

theorem decimal_eq (v : Nat) : decimal v = codes (digitCodes v) := by
  unfold decimal digitCodes
  split
  · next h => simp [digit, codes, Nat.mod_eq_of_lt h]
  · split
    · next h =>
      have h1 : v / 10 % 10 = v / 10 := by omega
      simp [digit, codes, h1]
    · simp [digit, codes]

theorem length_decimal_le (v : Nat) : (decimal v).length ≤ 3 := by
  unfold decimal
  (repeat' split) <;> simp

theorem length_rightAlign {n : Nat} {t : List Byte} (h : t.length ≤ n) : (rightAlign n t).length = n := by
  simp [rightAlign]
  omega

@[simp] theorem length_padRight (n : Nat) (t : List Byte) : (padRight n t).length = n := by
  simp [padRight]

/-- The hall's number in its two cells (R86). -/
theorem hallText_eq (h : HallIx) : rightAlign 2 (decimal (h.val + 1)) =
    codes (if h.val + 1 < 10 then [32, 48 + (h.val + 1)] else [48 + (h.val + 1) / 10, 48 + (h.val + 1) % 10]) := by
  have hlt : h.val + 1 < 100 := by omega
  rw [decimal_eq, digitCodes]
  simp only [hlt, if_true]
  split <;> simp [rightAlign, codes]

theorem figureText_eq (q : Nat) (g : Figure) : figureText q g =
    codes (digitCodes g.value ++ (if g.rounded = true ∧ 1 < q then [43] else []) ++ [32, 76, 69, 70, 84]) := by
  have hb : (g.rounded && decide (1 < q)) = true ↔ g.rounded = true ∧ 1 < q := by simp
  rw [figureText, decimal_eq]
  by_cases h : g.rounded = true ∧ 1 < q
  · simp [codes, textLeft, h]
  · rw [if_neg h, if_neg (mt hb.mp h)]
    simp [codes, textLeft]

/-- A seat field fits its ten cells (R87). -/
theorem length_seatField_le (ln : Line) (flt : Filter) (e : Seat) (p : Option Nat) :
    (seatField ln flt e p).text.length ≤ 10 := by
  unfold seatField
  split
  · simp [textStarted]
  · split
    · simp [textSoldOut]
    · have h := length_decimal_le (quantize flt.f flt.q flt.h e.left p).value
      simp only [figureText, List.length_append, textLeft, List.length_cons, List.length_nil]
      split <;> simp <;> omega

/-- The quantizer on the figure it has left shows that figure again (R88). -/
theorem quantize_shown (f q h s : Nat) (p : Option Nat) :
    quantize f q h s (quantize f q h s p).shown = quantize f q h s p := by
  by_cases hf : s ≤ f
  · simp [quantize, hf]
  · have hround : ∀ k, keepsFigure q h s k = true ∨ k = roundedFigure f q s →
        quantize f q h s (some k) = { value := k, rounded := true, shown := some k } := by
      intro k hk
      simp only [quantize, hf, if_false]
      split
      · rfl
      · next hn => rw [hk.resolve_left hn]
    cases p with
    | none =>
      have : quantize f q h s none =
          { value := roundedFigure f q s, rounded := true, shown := some (roundedFigure f q s) } := by
        simp [quantize, hf]
      rw [this]
      exact hround _ (.inr rfl)
    | some k =>
      by_cases hk : keepsFigure q h s k = true
      · rw [hround k (.inl hk)]
        exact hround k (.inl hk)
      · have : quantize f q h s (some k) =
            { value := roundedFigure f q s, rounded := true, shown := some (roundedFigure f q s) } := by
          simp [quantize, hf, hk]
        rw [this]
        exact hround _ (.inr rfl)

/-- The seat field of the figure it has left is the same (R87, R88). -/
theorem seatField_shown (ln : Line) (flt : Filter) (e : Seat) (p : Option Nat) :
    seatField ln flt e (seatField ln flt e p).shown = seatField ln flt e p := by
  unfold seatField
  split
  · rfl
  · split
    · rfl
    · simp only [quantize_shown]

end Sys2Proof.Machine
end

section
namespace Sys2Proof.Machine

/-! ### What a line shows (R85 to R87, R90 to R92) -/

/-- The cells of a line as its kind has them, and the shown figure it leaves. -/
def lineContent (s : State) (p : PanelIx) (l : LineIx) : List Target × Option Nat :=
  match (s.line p l).kind with
  | .unused => ([], lineAt s.roster.shown p l)
  | .trailer => ([], lineAt s.roster.shown p l)
  | .clock => (inPair (s.line p l).normal (clockText s.setup.origin s.clock.now), lineAt s.roster.shown p l)
  | .notice => (noticeCells s p l, lineAt s.roster.shown p l)
  | .rosterWide => rosterCells s p l
  | .rosterNarrow => rosterCells s p l

theorem lineContent_clock {s : State} {p : PanelIx} {l : LineIx} (h : (s.line p l).kind = .clock) : lineContent s p l =
    (inPair (s.line p l).normal (clockText s.setup.origin s.clock.now), lineAt s.roster.shown p l) := by
  simp [lineContent, h]

theorem lineContent_notice {s : State} {p : PanelIx} {l : LineIx} (h : (s.line p l).kind = .notice) :
    lineContent s p l = (noticeCells s p l, lineAt s.roster.shown p l) := by
  simp [lineContent, h]

theorem lineContent_roster {s : State} {p : PanelIx} {l : LineIx} (h : (s.line p l).kind.isRoster = true) :
    lineContent s p l = rosterCells s p l := by
  rcases isRoster_iff.mp h with e | e <;> simp [lineContent, e]

theorem lineContent_other {s : State} {p : PanelIx} {l : LineIx} (h : (s.line p l).kind.isRoster = false) :
    (lineContent s p l).2 = lineAt s.roster.shown p l := by
  unfold lineContent
  cases hk : (s.line p l).kind <;> simp_all [LineKind.isRoster]

@[simp] theorem setLine_lineAt {α : Type} (m : Vector (Vector α 16) 24) (p : PanelIx) (l : LineIx) :
    setLine m p l (lineAt m p l) = m := by
  simp [setLine, lineAt]

theorem storeTargets_nil (s : State) (p : PanelIx) (l : LineIx) : storeTargets s p l [] = s := by
  have h : (tab fun c : CellIx => ((s.roster.targets.get p).get l).get c) = (s.roster.targets.get p).get l :=
    table_ext fun c => by simp
  have h' : setLine s.roster.targets p l ((s.roster.targets.get p).get l) = s.roster.targets := setLine_lineAt _ p l
  simp [storeTargets, h, h']

/-- A line's content stored: its targets and its shown figure. -/
theorem storeLine_eq (s : State) (p : PanelIx) (l : LineIx) : storeLine s p l =
    storeTargets { s with roster := { s.roster with shown := setLine s.roster.shown p l (lineContent s p l).2 } } p l
      (lineContent s p l).1 := by
  cases hk : (s.line p l).kind <;> simp [storeLine, lineContent, hk, storeTargets_nil]

theorem computeLine_roster (s : State) (p : PanelIx) (l : LineIx) :
    (computeLine s p l).roster = (storeLine s p l).roster :=
  foldl_keeps State.roster _ (by simp) _ _

theorem computeLine_shown (s : State) (p q : PanelIx) (l k : LineIx) :
    lineAt (computeLine s p l).roster.shown q k =
      if q = p ∧ k = l then (lineContent s p l).2 else lineAt s.roster.shown q k := by
  rw [computeLine_roster, storeLine_eq]
  exact lineAt_setLine _ _ _ _ _ _

theorem cellAt_setLine {α : Type} (m : Vector (Vector (Vector α 48) 16) 24) (p : PanelIx) (l : LineIx)
    (v : Vector α 48) (r : CellRef) :
    cellAt (setLine m p l v) r = if r.panel = p ∧ r.line = l then v.get r.cell else cellAt m r := by
  have h := lineAt_setLine m p r.panel l r.line v
  unfold lineAt at h
  unfold cellAt
  rw [h]
  split <;> rfl

/-- The targets after a line is computed: its content as far as it goes. -/
theorem computeLine_targets (s : State) (p : PanelIx) (l : LineIx) (r : CellRef) :
    cellAt (computeLine s p l).roster.targets r =
      if r.panel = p ∧ r.line = l then ((lineContent s p l).1[r.cell.val]?).getD (cellAt s.roster.targets r)
      else cellAt s.roster.targets r := by
  rw [computeLine_roster, storeLine_eq]
  refine (cellAt_setLine _ p l _ r).trans ?_
  split
  · next h =>
    obtain ⟨rfl, rfl⟩ := h
    rw [get_tab]
    rfl
  · rfl

/-- Of the Roster Unit the computation of a line changes the shown figures and the targets alone. -/
theorem computeLine_roster_frame (s : State) (p : PanelIx) (l : LineIx) :
    (computeLine s p l).roster =
      { s.roster with
        shown := (computeLine s p l).roster.shown, targets := (computeLine s p l).roster.targets } := by
  rw [computeLine_roster, storeLine_eq]
  rfl

/-! #### How long a line's content is -/

@[simp] theorem length_inPair (pair : PairIx) (t : List Byte) : (inPair pair t).length = t.length := List.length_map _

theorem length_noticeCells (s : State) (p : PanelIx) (l : LineIx) :
    (noticeCells s p l).length = (s.line p l).width := by
  unfold noticeCells
  dsimp only
  split <;> simp

theorem length_rosterCells {s : State} {p : PanelIx} {l : LineIx} (h : (s.line p l).kind.isRoster = true) :
    (rosterCells s p l).1.length = (s.line p l).cells := by
  have hhall : ∀ x : HallIx, (rightAlign 2 (decimal (x.val + 1))).length = 2 := fun x => by
    rw [hallText_eq, length_codes]
    split <;> rfl
  unfold rosterCells
  dsimp only
  split
  · simp
  · next i hi =>
    have hfield := length_rightAlign (length_seatField_le (s.line p l) (s.roster.layouts.get p).filter
      (s.seats.entries.get i) (lineAt s.roster.shown p l))
    rcases isRoster_iff.mp h with e | e
    · simp [e, Line.cells, hhall, hfield, titleCells]
    · simp [e, Line.cells, hfield]

/-- A line's content has one target for each of its cells (R77). -/
theorem length_lineContent (s : State) (p : PanelIx) (l : LineIx) :
    (lineContent s p l).1.length = (s.line p l).cells := by
  cases hk : (s.line p l).kind with
  | unused => simp [lineContent, hk, Line.cells]
  | trailer => simp [lineContent, hk, Line.cells]
  | clock => simp [lineContent_clock hk, Line.cells, hk]
  | notice => simp [lineContent_notice hk, length_noticeCells, Line.cells, hk]
  | rosterWide =>
    have hr : (s.line p l).kind.isRoster = true := by rw [hk]; rfl
    rw [lineContent_roster hr, length_rosterCells hr]
  | rosterNarrow =>
    have hr : (s.line p l).kind.isRoster = true := by rw [hk]; rfl
    rw [lineContent_roster hr, length_rosterCells hr]

/-! #### A line that shows its content -/

/-- A line shows its content: its shown figure is the one the content leaves, and its cells have the content's
targets. -/
def Shows (s : State) (p : PanelIx) (l : LineIx) : Prop :=
  (lineContent s p l).2 = lineAt s.roster.shown p l ∧
    ∀ c : CellIx, ∀ x, (lineContent s p l).1[c.val]? = some x →
      cellAt s.roster.targets { panel := p, line := l, cell := c } = x

/-- A line that shows its content is not changed when it is computed once more. -/
theorem Shows.computeLine_roster {s : State} {p : PanelIx} {l : LineIx} (h : Shows s p l) :
    (computeLine s p l).roster = s.roster := by
  have hshown : (computeLine s p l).roster.shown = s.roster.shown := by
    rw [Machine.computeLine_roster, storeLine_eq]
    change setLine s.roster.shown p l (lineContent s p l).2 = s.roster.shown
    rw [h.1, setLine_lineAt]
  have htargets : (computeLine s p l).roster.targets = s.roster.targets := by
    refine table_ext fun q => table_ext fun k => table_ext fun c => ?_
    have hc := computeLine_targets s p l { panel := q, line := k, cell := c }
    refine hc.trans ?_
    split
    · next he =>
      obtain ⟨rfl, rfl⟩ := he
      cases hx : (lineContent s q k).1[c.val]? with
      | none => rfl
      | some x => exact (h.2 c x hx).symm
    · rfl
  rw [computeLine_roster_frame, hshown, htargets]

/-- Two states agree in the values that line contents are made of. -/
structure SameGround (s t : State) : Prop where
  setup : t.setup = s.setup
  seats : t.seats = s.seats
  clock : t.clock = s.clock
  notices : t.notices = s.notices
  layouts : t.roster.layouts = s.roster.layouts
  titles : t.roster.titles = s.roster.titles

theorem SameGround.refl (s : State) : SameGround s s := by constructor <;> rfl

theorem SameGround.trans {s t u : State} (h : SameGround s t) (k : SameGround t u) : SameGround s u :=
  ⟨k.setup.trans h.setup, k.seats.trans h.seats, k.clock.trans h.clock, k.notices.trans h.notices,
    k.layouts.trans h.layouts, k.titles.trans h.titles⟩

theorem SameGround.line {s t : State} (h : SameGround s t) (p : PanelIx) (l : LineIx) : t.line p l = s.line p l := by
  simp only [State.line, h.layouts]

theorem SameGround.rosterOf {s t : State} (h : SameGround s t) (p : PanelIx) : rosterOf t p = rosterOf s p := by
  have hb : rosterBefore t = rosterBefore s := by
    funext i j
    simp only [rosterBefore, h.seats, h.clock]
  simp only [Machine.rosterOf, hb, h.layouts, h.seats]

theorem computeLine_ground (s : State) (p : PanelIx) (l : LineIx) : SameGround s (computeLine s p l) := by
  have hframe := computeLine_roster_frame s p l
  exact ⟨by simp, by simp, by simp, by simp, by rw [hframe], by rw [hframe]⟩

/-- A line's content rests on its descriptor, on the values it is made of, and on its assignment and shown figure. -/
theorem lineContent_congr {s t : State} {p : PanelIx} {l : LineIx} (h : SameGround s t)
    (ha : lineAt t.roster.assign p l = lineAt s.roster.assign p l)
    (hs : lineAt t.roster.shown p l = lineAt s.roster.shown p l) : lineContent t p l = lineContent s p l := by
  have hnotice : noticeCells t p l = noticeCells s p l := by simp only [noticeCells, h.line, h.notices]
  have hroster : rosterCells t p l = rosterCells s p l := by
    simp only [rosterCells, h.line, h.setup, h.seats, h.layouts, h.titles, ha, hs, titleCells]
  simp only [lineContent, h.line, h.setup, h.clock, hs, hnotice, hroster]

/-- With the shown figure that it leaves, a line's content is the same (R88). -/
theorem lineContent_shown {s t : State} {p : PanelIx} {l : LineIx} (h : SameGround s t)
    (ha : lineAt t.roster.assign p l = lineAt s.roster.assign p l)
    (hs : lineAt t.roster.shown p l = (lineContent s p l).2) : lineContent t p l = lineContent s p l := by
  cases hr : (s.line p l).kind.isRoster with
  | false => exact lineContent_congr h ha (hs.trans (lineContent_other hr))
  | true =>
    rw [lineContent_roster hr] at hs ⊢
    rw [lineContent_roster (by rw [h.line]; exact hr)]
    cases hi : lineAt s.roster.assign p l with
    | none => simp_all [rosterCells, h.line]
    | some i =>
      have hfig : (rosterCells s p l).2 = (seatField (s.line p l) (s.roster.layouts.get p).filter
          (s.seats.entries.get i) (lineAt s.roster.shown p l)).shown := by
        simp only [rosterCells, hi]
        split <;> rfl
      simp only [rosterCells, ha, hi, h.line, h.setup, h.seats, h.layouts, h.titles, titleCells]
      rw [hs, hfig, seatField_shown]

/-- A line shows its content once it is computed. -/
theorem shows_computeLine (s : State) (p : PanelIx) (l : LineIx) : Shows (computeLine s p l) p l := by
  have hshown : lineAt (computeLine s p l).roster.shown p l = (lineContent s p l).2 := by
    rw [computeLine_shown, if_pos ⟨rfl, rfl⟩]
  have hc : lineContent (computeLine s p l) p l = lineContent s p l :=
    lineContent_shown (computeLine_ground s p l) (by rw [computeLine_roster_frame]) hshown
  refine ⟨by rw [hc, hshown], fun c x hx => ?_⟩
  rw [hc] at hx
  rw [computeLine_targets, if_pos ⟨rfl, rfl⟩, hx]
  rfl

/-- What leaves a line's values, its figure and its targets alone leaves it showing its content. -/
theorem Shows.congr {s t : State} {p : PanelIx} {l : LineIx} (h : Shows s p l) (hg : SameGround s t)
    (ha : lineAt t.roster.assign p l = lineAt s.roster.assign p l)
    (hs : lineAt t.roster.shown p l = lineAt s.roster.shown p l)
    (ht : ∀ c, cellAt t.roster.targets { panel := p, line := l, cell := c } =
      cellAt s.roster.targets { panel := p, line := l, cell := c }) : Shows t p l := by
  have hc := lineContent_congr hg ha hs
  refine ⟨by rw [hc, hs]; exact h.1, fun c x hx => ?_⟩
  rw [ht c]
  exact h.2 c x (hc ▸ hx)

end Sys2Proof.Machine
end

section
namespace Sys2Proof.Machine

/-! ### Cells offered when their targets change (R85, R97) -/

/-- `offeredByTarget` with what it needs to be taken together with what comes next: no redraw-pending mark is lost. -/
structure Offered (s t : State) (changed : CellRef → Prop) : Prop where
  main : offeredByTarget s t changed
  redraw : ∀ p l, lineAt s.painter.redraw p l = true → lineAt t.painter.redraw p l = true

theorem Offered.congr {s t : State} {a b : CellRef → Prop} (h : Offered s t a) (k : ∀ r, b r ↔ a r) : Offered s t b :=
  (funext fun r => propext (k r) : b = a) ▸ h

/-- Where the Cell Painter is as it was, nothing has been offered. -/
theorem Offered.of_painter {s t : State} (h : t.painter = s.painter) : Offered s t fun _ => False := by
  have hm : ∀ r, cellMarks t r = cellMarks s r := fun r => by simp only [cellMarks, h]
  exact ⟨⟨by rw [h], ⟨[], by rw [h, List.append_nil]⟩, fun r => ⟨fun _ => hm r, fun hc => hc.elim⟩⟩,
    fun p l hr => by rw [h]; exact hr⟩

/-- An offer leaves the painted contents alone. -/
theorem Offered.painted {s t : State} {a : CellRef → Prop} (h : Offered s t a) (r : CellRef) :
    (cellMarks t r).painted = (cellMarks s r).painted := by
  obtain ⟨h1, h2⟩ := h.main.2.2 r
  by_cases hk : ¬a r ∨ stale t r = false ∨ (cellMarks s r).queued = true ∨ (cellMarks s r).painting = true
  · rw [h1 hk]
  · simp only [not_or, not_not] at hk
    obtain ⟨ha, hs, hq, hp⟩ := hk
    rw [(h2 ha (by simpa using hs) (by simpa using hq) (by simpa using hp)).1]

/-- Two rounds of offers, in which no place is offered twice and none has its target changed after it is offered. -/
theorem Offered.trans {s t u : State} {a b : CellRef → Prop} (h : Offered s t a) (k : Offered t u b)
    (hab : ∀ r, a r → ¬b r) (ht : ∀ r, a r → cellAt u.roster.targets r = cellAt t.roster.targets r) :
    Offered s u fun r => a r ∨ b r := by
  obtain ⟨⟨hslots, ⟨more, hqueue⟩, hmarks⟩, hredraw⟩ := h
  have kpainted := k.painted
  obtain ⟨⟨kslots, ⟨more', kqueue⟩, kmarks⟩, kredraw⟩ := k
  refine ⟨⟨kslots.trans hslots, ⟨more ++ more', by rw [kqueue, hqueue, List.append_assoc]⟩, fun r => ?_⟩,
    fun p l hr => kredraw p l (hredraw p l hr)⟩
  obtain ⟨h1, h2⟩ := hmarks r
  obtain ⟨k1, k2⟩ := kmarks r
  by_cases ha : a r
  · have hu : cellMarks u r = cellMarks t r := k1 (.inl (hab r ha))
    have hst : stale u r = stale t r := by
      have hp := kpainted r
      simp only [cellMarks] at hp
      simp only [stale, hp, ht r ha]
    dsimp only
    rw [hu, hst]
    refine ⟨fun hk => h1 (hk.imp_left fun hn => absurd (.inl ha) hn), fun _ hs hq hp => ?_⟩
    obtain ⟨e, hor⟩ := h2 ha hs hq hp
    exact ⟨e, hor.imp_right (kredraw _ _)⟩
  · have hm : cellMarks t r = cellMarks s r := h1 (.inl ha)
    rw [hm] at k1 k2
    exact ⟨fun hk => k1 (hk.imp_left fun hn hb => hn (.inr hb)), fun hk => k2 (hk.resolve_left ha)⟩

/-! #### One cell, and the cells of a line -/

theorem enqueueCell_redraw {s : State} (r : CellRef) (p : PanelIx) (l : LineIx)
    (h : lineAt s.painter.redraw p l = true) : lineAt (enqueueCell s r).painter.redraw p l = true := by
  unfold enqueueCell
  split
  · exact h
  · simp only [setRedraw, lineAt_setLine]
    split
    · rfl
    · exact h

/-- A cell put in the queue: its queued mark is set, or its line marked (R97). -/
theorem enqueueCell_marks (s : State) (r q : CellRef) :
    cellMarks (enqueueCell s r) q = (if q = r then
        { cellMarks s r with queued := (cellMarks (enqueueCell s r) r).queued } else cellMarks s q) ∧
      ((cellMarks (enqueueCell s r) r).queued = true ∨
        lineAt (enqueueCell s r).painter.redraw r.panel r.line = true) := by
  unfold enqueueCell
  split
  · refine ⟨?_, .inl (by simp [cellMarks])⟩
    split
    · next e => subst e; simp [cellMarks]
    · next e => simp [cellMarks, e]
  · refine ⟨?_, .inr (by simp [setRedraw, lineAt_setLine])⟩
    split
    · next e => subst e; rfl
    · rfl

/-- An offer by a target change, taken apart (R97). -/
theorem offer_cases (s : State) (r : CellRef) :
    ((isCell s r = false ∨ stale s r = false ∨ (cellMarks s r).queued = true ∨ (cellMarks s r).painting = true) ∧
      offer s r true = s) ∨
    (stale s r = true ∧ (cellMarks s r).queued = false ∧ (cellMarks s r).painting = false ∧
      offer s r true = enqueueCell (setMarks s r { cellMarks s r with faulted := false }) r) := by
  unfold offer
  dsimp only
  split
  · next h => exact .inl ⟨by simpa [or_assoc] using h, rfl⟩
  · next h =>
    have h : ((isCell s r = true ∧ stale s r = true) ∧ (cellMarks s r).queued = false) ∧
        (cellMarks s r).painting = false := by simpa [not_or] using h
    obtain ⟨⟨⟨-, hs⟩, hq⟩, hp⟩ := h
    refine .inr ⟨hs, hq, hp, ?_⟩
    split
    · rfl
    · next hf =>
      have hm : ({ cellMarks s r with faulted := false } : CellMarks) = cellMarks s r := by
        have hf : (cellMarks s r).faulted = false := by simpa using hf
        rw [← hf]
      have hset : setCell s.painter.marks r (cellAt s.painter.marks r) = s.painter.marks :=
        table_ext fun p => table_ext fun l => table_ext fun c => by
          have hc := cellAt_setCell s.painter.marks r { panel := p, line := l, cell := c } (cellAt s.painter.marks r)
          refine hc.trans ?_
          split
          · next e => rw [← e]; rfl
          · rfl
      rw [hm]
      simp [setMarks, cellMarks, hset]

/-- A cell offered because its target has changed (R97). -/
theorem Offered.offer {s : State} {r : CellRef} (hr : isCell s r = true) : Offered s (offer s r true) (· = r) := by
  rcases offer_cases s r with ⟨h, e⟩ | ⟨hs, hq, hp, e⟩
  · have h := h.resolve_left (by simp [hr])
    rw [e]
    have h0 := Offered.of_painter (s := s) (t := s) rfl
    refine ⟨⟨h0.main.1, h0.main.2.1, fun q => ⟨fun _ => rfl, ?_⟩⟩, h0.redraw⟩
    rintro rfl hs hq hp
    simp [hs, hq, hp] at h
  · rw [e]
    have hset : ∀ q, cellMarks (setMarks s r { cellMarks s r with faulted := false }) q =
        if q = r then { cellMarks s r with faulted := false } else cellMarks s q := fun q => by
      simp only [cellMarks, setMarks, cellAt_setCell]
    refine ⟨⟨?_, ?_, fun q => ?_⟩, fun p l h => enqueueCell_redraw r p l h⟩
    · unfold enqueueCell
      split <;> rfl
    · unfold enqueueCell
      split
      · exact ⟨[r], rfl⟩
      · exact ⟨[], (List.append_nil _).symm⟩
    · obtain ⟨hm, hor⟩ := enqueueCell_marks (setMarks s r { cellMarks s r with faulted := false }) r q
      dsimp only
      by_cases hqr : q = r
      · subst hqr
        have hst : stale (enqueueCell (setMarks s q { cellMarks s q with faulted := false }) q) q = stale s q := by
          rw [if_pos rfl, hset, if_pos rfl] at hm
          have hpaint := congrArg CellMarks.painted hm
          simp only [cellMarks] at hpaint
          simp only [stale, cellMarks, hpaint, enqueueCell_keeps, setMarks_keeps]
        rw [hst]
        refine ⟨fun hk => absurd hk (by simp [hs, hq, hp]), fun _ _ _ _ => ⟨?_, hor⟩⟩
        rw [hm, if_pos rfl, hset, if_pos rfl]
      · refine ⟨fun _ => ?_, fun hk => absurd hk hqr⟩
        rw [hm, if_neg hqr, hset, if_neg hqr]

/-- Cells offered one after another, each once. -/
theorem Offered.foldl {l : List CellRef} (hn : l.Nodup) {s : State} (hl : ∀ r ∈ l, isCell s r = true) :
    Offered s (l.foldl (fun t r => Machine.offer t r true) s) (· ∈ l) := by
  induction l generalizing s with
  | nil => exact (Offered.of_painter rfl).congr fun r => by simp
  | cons a l ih =>
    obtain ⟨hna, hnl⟩ := List.nodup_cons.mp hn
    have hcell : ∀ r ∈ l, isCell (Machine.offer s a true) r = true := fun r hr => by
      have hro : (Machine.offer s a true).roster = s.roster := by simp
      have hline : (Machine.offer s a true).line r.panel r.line = s.line r.panel r.line := by
        simp only [State.line, hro]
      have hs := hl r (List.mem_cons_of_mem _ hr)
      rw [isCell, hline]
      exact hs
    refine ((Offered.offer (hl a List.mem_cons_self)).trans (ih hnl hcell) ?_ fun r _ => ?_).congr
      fun r => List.mem_cons
    · rintro r rfl
      exact hna
    · rw [foldl_keeps State.roster _ (by simp)]

/-- What the computation of a line offers: the cells whose targets have changed (R85). -/
theorem offered_computeLine (s : State) (p : PanelIx) (l : LineIx) : Offered s (computeLine s p l)
    fun r => cellAt (computeLine s p l).roster.targets r ≠ cellAt s.roster.targets r := by
  have hlayouts : (storeLine s p l).roster.layouts = s.roster.layouts := by rw [storeLine_eq]; rfl
  have hcells : ∀ r, r ∈ lineCells (storeLine s p l) p l ↔ r.panel = p ∧ r.line = l ∧ r.cell.val < (s.line p l).cells :=
    fun r => by
      rw [mem_lineCells]
      refine and_congr_right fun h1 => and_congr_right fun h2 => ?_
      simp [isCell, State.line, hlayouts, h1, h2]
  have h0 : Offered s (storeLine s p l) fun _ => False := .of_painter (by simp)
  have h1 := Offered.foldl (s := storeLine s p l) ((lineCells_nodup (storeLine s p l) p l).filter fun r =>
    cellAt (storeLine s p l).roster.targets r != cellAt s.roster.targets r)
    (fun r hr => (mem_lineCells.mp (List.mem_of_mem_filter hr)).2.2)
  refine (h0.trans h1 (fun _ h => h.elim) fun _ h => h.elim).congr fun r => ?_
  rw [List.mem_filter, hcells, bne_iff_ne, computeLine_roster, false_or]
  refine ⟨fun hne => ⟨?_, hne⟩, fun h => h.2⟩
  rw [← computeLine_roster, computeLine_targets] at hne
  split at hne
  · next h =>
    refine ⟨h.1, h.2, ?_⟩
    by_contra hlt
    rw [List.getElem?_eq_none (by rw [length_lineContent]; omega)] at hne
    exact hne rfl
  · exact absurd rfl hne

end Sys2Proof.Machine
end

section
namespace Sys2Proof.Machine

/-! ### The boards after a recomputation (R85, R93) -/

/-- A place's target differs between two states. -/
def retargeted (s t : State) (r : CellRef) : Prop := cellAt t.roster.targets r ≠ cellAt s.roster.targets r

/-- Two rounds of offers of the places whose targets change, none of them twice. -/
theorem Offered.retargeted_trans {s t u : State} (h : Offered s t (retargeted s t)) (k : Offered t u (retargeted t u))
    (ht : ∀ r, retargeted s t r → cellAt u.roster.targets r = cellAt t.roster.targets r) :
    Offered s u (retargeted s u) := by
  refine (h.trans k (fun r hr hn => hn (ht r hr)) ht).congr fun r => ?_
  by_cases hr : retargeted s t r
  · exact iff_of_true (by simpa only [retargeted, ht r hr] using hr) (.inl hr)
  · have he : cellAt t.roster.targets r = cellAt s.roster.targets r := not_not.mp hr
    simp only [retargeted, he, ne_eq, not_true, false_or]

/-! #### The lines of a panel -/

/-- The lines of a panel that `k` picks have been computed: they show their content, nothing else of the boards has
changed, shown figures only of roster lines, and the places whose targets have changed have been offered. -/
structure LinesDone (s t : State) (p : PanelIx) (k : LineIx → Prop) : Prop where
  ground : SameGround s t
  roster : t.roster = { s.roster with shown := t.roster.shown, targets := t.roster.targets }
  shows : ∀ l, k l → Shows t p l
  shown : ∀ q l, ¬(q = p ∧ k l ∧ (s.line q l).kind.isRoster = true) →
    lineAt t.roster.shown q l = lineAt s.roster.shown q l
  targets : ∀ r : CellRef, ¬(r.panel = p ∧ k r.line) → cellAt t.roster.targets r = cellAt s.roster.targets r
  offered : Offered s t (retargeted s t)

theorem LinesDone.assign {s t : State} {p : PanelIx} {k : LineIx → Prop} (h : LinesDone s t p k) :
    t.roster.assign = s.roster.assign := by rw [h.roster]

theorem LinesDone.none (s : State) (p : PanelIx) : LinesDone s s p fun _ => False where
  ground := .refl s
  roster := rfl
  shows _ h := h.elim
  shown _ _ _ := rfl
  targets _ _ := rfl
  offered := (Offered.of_painter rfl).congr fun _ => iff_of_false (fun h => h rfl) id

theorem LinesDone.one (s : State) (p : PanelIx) (l : LineIx) : LinesDone s (computeLine s p l) p (· = l) where
  ground := computeLine_ground s p l
  roster := computeLine_roster_frame s p l
  shows := by rintro _ rfl; exact shows_computeLine s p _
  shown q k h := by
    rw [computeLine_shown]
    split
    · next e =>
      obtain ⟨rfl, rfl⟩ := e
      exact lineContent_other (by simpa using h)
    · rfl
  targets r h := by rw [computeLine_targets, if_neg h]
  offered := offered_computeLine s p l

/-- One set of lines computed after another. -/
theorem LinesDone.trans {s t u : State} {p : PanelIx} {a b : LineIx → Prop} (h : LinesDone s t p a)
    (k : LinesDone t u p b) (hab : ∀ l, a l → ¬b l) : LinesDone s u p fun l => a l ∨ b l where
  ground := h.ground.trans k.ground
  roster := by rw [k.roster, h.roster]
  shows l hl := by
    by_cases hb : b l
    · exact k.shows l hb
    · exact (h.shows l (hl.resolve_right hb)).congr k.ground (by rw [k.assign]) (k.shown p l fun hc => hb hc.2.1)
        fun c => k.targets _ fun hc => hb hc.2
  shown q l hn := by
    rw [k.shown q l fun hc => hn ⟨hc.1, .inr hc.2.1, h.ground.line q l ▸ hc.2.2⟩,
      h.shown q l fun hc => hn ⟨hc.1, .inl hc.2.1, hc.2.2⟩]
  targets r hn := by rw [k.targets r fun hc => hn ⟨hc.1, .inr hc.2⟩, h.targets r fun hc => hn ⟨hc.1, .inl hc.2⟩]
  offered := h.offered.retargeted_trans k.offered fun r hr => by
    have ha : r.panel = p ∧ a r.line := by
      by_contra hn
      exact hr (h.targets r hn)
    exact k.targets r fun hc => hab _ ha.2 hc.2

theorem LinesDone.foldl {l : List LineIx} (hn : l.Nodup) (s : State) (p : PanelIx) :
    LinesDone s (l.foldl (fun t l => computeLine t p l) s) p (· ∈ l) := by
  induction l generalizing s with
  | nil => simpa using LinesDone.none s p
  | cons a l ih =>
    obtain ⟨ha, hl⟩ := List.nodup_cons.mp hn
    have h := (LinesDone.one s p a).trans (ih hl (computeLine s p a)) (by rintro _ rfl; exact ha)
    rw [List.foldl_cons]
    simpa only [List.mem_cons] using h

/-- The lines of a panel that a selection picks are computed (R85). -/
theorem computeLines_done (s : State) (p : PanelIx) (sel : LineIx → Bool) :
    LinesDone s (computeLines s p sel) p (sel · = true) := by
  have h := LinesDone.foldl ((List.nodup_finRange 16).filter sel) s p
  simp only [List.mem_filter, List.mem_finRange, true_and] at h
  exact h

/-! #### Panels -/

/-- The lines of the kinds `w` on the panels that `a` picks have been recomputed: `boardsFollow`, with what it needs to
be taken together with what comes next. -/
structure Followed (s t : State) (w : Which) (a : PanelIx → Prop) : Prop where
  ground : SameGround s t
  roster : t.roster = { s.roster with
    rosters := t.roster.rosters, assign := t.roster.assign, shown := t.roster.shown, targets := t.roster.targets }
  shows : ∀ p, a p → ∀ l, w.has (s.line p l).kind = true → Shows t p l
  ranks : ∀ p, a p → w.roster = true → t.roster.rosters.get p = rosterOf s p ∧ ∀ l, lineAt t.roster.assign p l =
    if (s.line p l).kind.isRoster then (rosterOf s p)[(s.line p l).rank]? else lineAt s.roster.assign p l
  others : ∀ p, ¬a p ∨ w.roster = false → t.roster.rosters.get p = s.roster.rosters.get p ∧
    t.roster.assign.get p = s.roster.assign.get p ∧ t.roster.shown.get p = s.roster.shown.get p
  targets : ∀ r : CellRef, ¬a r.panel ∨ w.has (s.line r.panel r.line).kind = false →
    cellAt t.roster.targets r = cellAt s.roster.targets r
  offered : Offered s t (retargeted s t)

theorem Followed.none (s : State) (w : Which) : Followed s s w fun _ => False where
  ground := .refl s
  roster := rfl
  shows _ h := h.elim
  ranks _ h := h.elim
  others _ _ := ⟨rfl, rfl, rfl⟩
  targets _ _ := rfl
  offered := (LinesDone.none s 0).offered

theorem Which.has_of_isRoster {w : Which} {k : LineKind} (hk : k.isRoster = true) : w.has k = w.roster := by
  rcases isRoster_iff.mp hk with rfl | rfl <;> rfl

/-- The assignment of a panel's roster lines leaves the ground of contents and the targets alone. -/
theorem assignRoster_ground (s : State) (p : PanelIx) : SameGround s (assignRoster s p) := by
  constructor <;> rfl

/-- One panel's lines are recomputed, with its roster first when roster lines are among them (R93). -/
theorem Followed.panel (s : State) (w : Which) (p : PanelIx) : Followed s (recomputePanel s w p) w (· = p) := by
  have hdone : ∃ u, u = (if w.roster then assignRoster s p else s) ∧
      LinesDone u (recomputePanel s w p) p fun l => w.has (s.line p l).kind = true :=
    ⟨_, rfl, computeLines_done _ p _⟩
  obtain ⟨u, hu, done⟩ := hdone
  have hground : SameGround s u := by
    rw [hu]
    split
    · exact assignRoster_ground s p
    · exact .refl s
  have htargets : u.roster.targets = s.roster.targets := by rw [hu]; split <;> rfl
  have hpainter : u.painter = s.painter := by rw [hu]; split <;> rfl
  refine ⟨hground.trans done.ground, ?_, ?_, ?_, ?_, ?_, ?_⟩
  · rw [done.roster, hu]
    split <;> rfl
  · rintro _ rfl l hl
    exact done.shows l hl
  · rintro _ rfl hw
    rw [done.roster, hu, if_pos hw]
    refine ⟨by simp [assignRoster], fun l => ?_⟩
    dsimp only
    rw [assignRoster_assign]
    simp
  · intro q hq
    have hshown : ∀ l, lineAt (recomputePanel s w p).roster.shown q l = lineAt u.roster.shown q l := fun l => by
      refine done.shown q l ?_
      rintro ⟨rfl, hl, hr⟩
      rw [hground.line] at hr
      rw [Which.has_of_isRoster hr, hq.resolve_left (fun h => h rfl)] at hl
      exact absurd hl nofun
    have hkept : u.roster.rosters.get q = s.roster.rosters.get q ∧ u.roster.assign.get q = s.roster.assign.get q ∧
        u.roster.shown.get q = s.roster.shown.get q := by
      rw [hu]
      split
      · next hw =>
        have hne : q ≠ p := hq.resolve_right (by rw [hw]; exact nofun)
        simp [assignRoster, hne]
      · exact ⟨rfl, rfl, rfl⟩
    refine ⟨?_, ?_, (table_ext hshown).trans hkept.2.2⟩
    · rw [done.roster]; exact hkept.1
    · rw [done.assign]; exact hkept.2.1
  · rintro r hr
    rw [← htargets]
    exact done.targets r fun hc => hr.elim (fun hn => hn hc.1) fun hn => by
      rw [hc.1] at hn
      exact absurd hc.2 (by rw [hn]; exact nofun)
  · have h0 : Offered s u (retargeted s u) := (Offered.of_painter hpainter).congr fun r =>
      iff_of_false (fun h => h (by rw [htargets])) id
    exact h0.retargeted_trans done.offered fun r hr => absurd (by rw [htargets]) hr

/-- Some panels recomputed after others. -/
theorem Followed.trans {s t u : State} {w : Which} {a b : PanelIx → Prop} (h : Followed s t w a)
    (k : Followed t u w b) (hab : ∀ p, a p → ¬b p) : Followed s u w fun p => a p ∨ b p where
  ground := h.ground.trans k.ground
  roster := by rw [k.roster, h.roster]
  shows p hp l hl := by
    by_cases hb : b p
    · exact k.shows p hb l (by rw [h.ground.line]; exact hl)
    · obtain ⟨-, ha, hs⟩ := k.others p (.inl hb)
      refine (h.shows p (hp.resolve_right hb) l hl).congr k.ground ?_ ?_ fun c => k.targets _ (.inl hb)
      · simp only [lineAt, ha]
      · simp only [lineAt, hs]
  ranks p hp hw := by
    by_cases hb : b p
    · obtain ⟨hr, hl⟩ := k.ranks p hb hw
      obtain ⟨-, ha, -⟩ := h.others p (.inl fun h' => hab p h' hb)
      refine ⟨hr.trans (h.ground.rosterOf p), fun l => ?_⟩
      rw [hl l, h.ground.line, h.ground.rosterOf]
      simp only [lineAt, ha]
    · obtain ⟨hr, hl⟩ := h.ranks p (hp.resolve_right hb) hw
      obtain ⟨hkr, ha, -⟩ := k.others p (.inl hb)
      refine ⟨hkr.trans hr, fun l => ?_⟩
      rw [← hl l]
      simp only [lineAt, ha]
  others p hp := by
    obtain ⟨k1, k2, k3⟩ := k.others p (hp.imp_left fun hn hb => hn (.inr hb))
    obtain ⟨h1, h2, h3⟩ := h.others p (hp.imp_left fun hn ha => hn (.inl ha))
    exact ⟨k1.trans h1, k2.trans h2, k3.trans h3⟩
  targets r hr := by
    rw [k.targets r (hr.imp (fun hn hb => hn (.inr hb)) fun hw => by rw [h.ground.line]; exact hw),
      h.targets r (hr.imp_left fun hn ha => hn (.inl ha))]
  offered := h.offered.retargeted_trans k.offered fun r hr => by
    have ha : a r.panel := by
      by_contra hn
      exact hr (h.targets r (.inl hn))
    exact k.targets r (.inl (hab _ ha))

theorem Followed.foldl {l : List PanelIx} (hn : l.Nodup) (s : State) (w : Which) :
    Followed s (l.foldl (fun t p => recomputePanel t w p) s) w (· ∈ l) := by
  induction l generalizing s with
  | nil => simpa using Followed.none s w
  | cons a l ih =>
    obtain ⟨ha, hl⟩ := List.nodup_cons.mp hn
    have h := (Followed.panel s w a).trans (ih hl (recomputePanel s w a)) (by rintro _ rfl; exact ha)
    rw [List.foldl_cons]
    simpa only [List.mem_cons] using h

/-- A recomputation of the lines of some kinds on some panels (R85, R93). -/
theorem recompute_followed (s : State) (w : Which) (sel : PanelIx → Bool) :
    Followed s (recompute s w sel) w (sel · = true) := by
  have h := Followed.foldl ((List.nodup_finRange 24).filter sel) s w
  simp only [List.mem_filter, List.mem_finRange, true_and] at h
  exact h

theorem offeredByTarget_congr {s s' t t' : State} {c : CellRef → Prop} (h : offeredByTarget s' t' c)
    (h1 : s'.painter = s.painter) (h2 : t.painter = t'.painter) (h3 : t.roster = t'.roster) :
    offeredByTarget s t c := by
  simpa only [offeredByTarget, cellMarks, stale, h1, h2, h3] using h

/-- What a recomputation from `s'` to `t'` brings about is what `boardsFollow` says, also of a rule from `s` to `t` that
does no more to the boards. -/
theorem Followed.boardsFollow {s s' t t' : State} {w : Which} {a : PanelIx → Prop} (h : Followed s' t' w a)
    (h1 : s'.roster = s.roster) (h2 : s'.painter = s.painter) (h3 : SameGround t' t) (h4 : t.roster = t'.roster)
    (h5 : t.painter = t'.painter) : boardsFollow s t a fun k => w.has k = true := by
  have hline : ∀ p l, s'.line p l = s.line p l := fun p l => by simp only [State.line, h1]
  have hline' : ∀ p l, t.line p l = s.line p l := fun p l =>
    ((h.ground.trans h3).line p l).trans (hline p l)
  have hroster : ∀ p, rosterOf t p = rosterOf s' p := (h.ground.trans h3).rosterOf
  refine ⟨by rw [h4, h.roster, h1], fun p hp => ⟨fun l hl => ?_, fun hw => ?_⟩, fun p hp => ?_, fun r hr => ?_, ?_⟩
  · rw [hline', ← hline] at hl
    refine ((h.shows p hp l hl).congr h3 ?_ ?_ fun c => ?_).computeLine_roster <;> rw [h4]
  · obtain ⟨hr, hl⟩ := h.ranks p hp hw
    rw [h4, hroster]
    refine ⟨hr, fun l => ?_⟩
    rw [hl l, hline', hline, h1]
  · rw [h4, ← h1]
    exact h.others p (hp.imp_right fun hw => Bool.eq_false_iff.mpr hw)
  · rw [h4, ← h1]
    refine h.targets r (hr.imp_right fun hw => ?_)
    rw [hline]
    exact Bool.eq_false_iff.mpr hw
  · refine offeredByTarget_congr ?_ h2 h5 h4
    rw [h4, ← h1]
    exact h.offered.main

end Sys2Proof.Machine
end

section
namespace Sys2Proof.Machine

/-! ### What a change of a showing's entry brings with it (R30, R93) -/

/-- The entries differ in one of the eight fields of R30. -/
theorem fieldsChanged_iff {a b : Seat} : fieldsChanged a b = true ↔ ({ a with changed := b.changed } : Seat) ≠ b := by
  obtain ⟨p, t, h, st, c, so, he, le, ch⟩ := a
  obtain ⟨p', t', h', st', c', so', he', le', ch'⟩ := b
  simp only [fieldsChanged, countsChanged, Bool.or_eq_true, bne_iff_ne, ne_eq, Seat.mk.injEq]
  tauto

theorem countsChanged_iff {a b : Seat} : countsChanged a b = true ↔
    b.phase ≠ a.phase ∨ b.left ≠ a.left ∨ b.sold ≠ a.sold ∨ b.held ≠ a.held := by
  simp only [countsChanged, Bool.or_eq_true, bne_iff_ne, ne_comm, or_assoc]

/-- An entry's hall is one of those that a change names, unless the entry is VACANT (log 22). -/
theorem mem_hallsOf {e : Seat} {h : HallIx} : h ∈ hallsOf e ↔ e.phase ≠ .vacant ∧ h = e.hall := by
  unfold hallsOf
  split <;> simp_all

/-- The Seat Unit's and the Commit Unit's part of a change of an entry (R14, R30). -/
theorem changeSeat_commit (s : State) (i : ShowingIx) (e : Seat) : (changeSeat s i e).commit =
    if countsChanged (s.seats.entries.get i) e = true then
      { s.commit with wbShowings := joinOnce s.commit.wbShowings i } else s.commit := by
  unfold changeSeat
  dsimp only
  split <;> split <;> split <;> simp [markShowing]

/-- A panel shows a showing's entry: its hall mask has the entry's hall, and the entry is not VACANT (log 22). -/
def covers (s : State) (p : PanelIx) (y : Seat) : Prop :=
  y.phase ≠ .vacant ∧ (s.roster.layouts.get p).filter.halls.getLsbD y.hall.val = true

theorem any_hallsOf (s : State) (p : PanelIx) (a b : Seat) :
    ((hallsOf a ++ hallsOf b).any fun h => (s.roster.layouts.get p).filter.halls.getLsbD h.val) = true ↔
      covers s p a ∨ covers s p b := by
  simp only [List.any_eq_true, List.mem_append, mem_hallsOf, covers]
  constructor
  · rintro ⟨h, (⟨hv, rfl⟩ | ⟨hv, rfl⟩), hh⟩
    · exact .inl ⟨hv, hh⟩
    · exact .inr ⟨hv, hh⟩
  · rintro (⟨hv, hh⟩ | ⟨hv, hh⟩)
    · exact ⟨_, .inl ⟨hv, rfl⟩, hh⟩
    · exact ⟨_, .inr ⟨hv, rfl⟩, hh⟩

/-- The roster lines alone. -/
def rosterLines : Which := { roster := true, clock := false, notice := false }

theorem rosterLines_has (k : LineKind) : rosterLines.has k = true ↔ rosterKind k := by
  cases k <;> simp [rosterLines, Which.has, rosterKind]

/-- The boards follow a change of an entry on the panels that show its old or its new hall, when one of the eight fields
changes (R30, R93). -/
theorem changeSeat_boards (s : State) (i : ShowingIx) (x : Seat) : boardsFollow s (changeSeat s i x)
    (fun p => fieldsChanged (s.seats.entries.get i) x = true ∧ (covers s p (s.seats.entries.get i) ∨ covers s p x))
    rosterKind := by
  have hkind : rosterKind = fun k => rosterLines.has k = true := funext fun k => propext (rosterLines_has k).symm
  rw [hkind]
  unfold changeSeat
  dsimp only
  generalize hu : (if countsChanged (s.seats.entries.get i) x = true then
    markShowing (placeSeat s i (stamp s.clock.now (s.seats.entries.get i) x)) i
    else placeSeat s i (stamp s.clock.now (s.seats.entries.get i) x)) = u
  have hur : u.roster = s.roster := by rw [← hu]; split <;> simp
  have hup : u.painter = s.painter := by rw [← hu]; split <;> simp
  have hfollow : Followed u (if fieldsChanged (s.seats.entries.get i) x = true then
      recomputeHalls u (hallsOf (s.seats.entries.get i) ++ hallsOf x) else u) rosterLines
      fun p => fieldsChanged (s.seats.entries.get i) x = true ∧
        (covers s p (s.seats.entries.get i) ∨ covers s p x) := by
    split
    · next hf =>
      have h := recompute_followed u rosterLines fun p =>
        (hallsOf (s.seats.entries.get i) ++ hallsOf x).any fun h => (u.roster.layouts.get p).filter.halls.getLsbD h.val
      simp only [hf, true_and, ← any_hallsOf, ← hur]
      exact h
    · next hf => simpa [hf] using Followed.none u rosterLines
  generalize (if fieldsChanged (s.seats.entries.get i) x = true then
    recomputeHalls u (hallsOf (s.seats.entries.get i) ++ hallsOf x) else u) = v at hfollow
  split
  · exact hfollow.boardsFollow hur hup (by constructor <;> simp) (by simp) (by simp)
  · exact hfollow.boardsFollow hur hup (.refl v) rfl rfl

/-- An entry that is changed has the new one's fields, and its time of last change by R30. -/
theorem changeSeat_entry (s : State) (i : ShowingIx) (x : Seat) :
    (changeSeat s i x).seats.entries.get i =
      { x with changed := ((changeSeat s i x).seats.entries.get i).changed } := by
  rw [changeSeat_get_self]
  unfold stamp
  split <;> rfl

/-- A change of an entry whose time of last change is not itself set (R30). -/
theorem changeSeat_changed (s : State) (i : ShowingIx) (x : Seat) (hx : x.changed = (s.seats.entries.get i).changed) :
    seatChanged s (changeSeat s i x) i := by
  have hself := changeSeat_get_self s i x
  have hcounts := countsChanged_iff (a := s.seats.entries.get i) (b := x)
  have hfields : fieldsChanged (s.seats.entries.get i) x = true ↔
      ({ s.seats.entries.get i with changed := ((changeSeat s i x).seats.entries.get i).changed } : Seat) ≠
        (changeSeat s i x).seats.entries.get i := by
    rw [← fieldsChanged_iff, hself]
    simp [fieldsChanged, countsChanged]
  refine ⟨fun j hj => changeSeat_get_ne s hj x, fun hc => ?_, fun hc => ?_, ?_⟩
  · have hc : countsChanged (s.seats.entries.get i) x = true := by
      rw [hcounts]
      simpa [hself] using hc
    rw [hself, changeSeat_commit, if_pos hc]
    simp [stamp, hc, joinOnce]
  · have hc : ¬countsChanged (s.seats.entries.get i) x = true := by
      rw [hcounts]
      simpa [hself] using hc
    rw [hself, changeSeat_commit, if_neg hc]
    simp [stamp, hc, hx]
  · have h := changeSeat_boards s i x
    have hcovers : ∀ p, covers s p ((changeSeat s i x).seats.entries.get i) ↔ covers s p x := fun p => by
      simp [covers, hself]
    simp only [hfields, ← hcovers] at h
    exact h

/-! ### The order, the assignment and the content, as the specification's sections have them -/

/-- The order of a roster (R82, R83). -/
theorem rosterOf_ordered (s : State) (p : PanelIx) :
    (rosterOf s p).length ≤ 16 ∧
      (∀ i ∈ rosterOf s p, eligible (s.roster.layouts.get p).filter (s.seats.entries.get i) = true) ∧
      ((rosterOf s p).Pairwise fun i j => rosterBefore s i j = true ∧ i ≠ j) ∧
      ∀ j, eligible (s.roster.layouts.get p).filter (s.seats.entries.get j) = true → j ∉ rosterOf s p →
        (rosterOf s p).length = 16 ∧ ∀ i ∈ rosterOf s p, rosterBefore s i j = true ∧ i ≠ j := by
  rw [rosterOf_eq]
  refine ⟨?_, fun i hi => mem_wholeRoster.mp (List.mem_of_mem_take hi),
    (pairwise_wholeRoster s p).sublist (List.take_sublist _ _),
    fun j hj hn => rel_of_not_mem_take (pairwise_wholeRoster s p) 16 (mem_wholeRoster.mpr hj) hn⟩
  rw [List.length_take]
  omega

/-- The cells of a line get the content's targets (R85). -/
theorem computeLine_shows (s : State) (p : PanelIx) (l : LineIx) {content : List Target} {shown : Option Nat}
    (hc : lineContent s p l = (content, shown)) : ∀ c : CellIx, c.val < (s.line p l).cells →
      content[c.val]? = some (cellAt (computeLine s p l).roster.targets { panel := p, line := l, cell := c }) := by
  intro c hlt
  rw [computeLine_targets, if_pos ⟨rfl, rfl⟩, hc]
  have hlen : c.val < content.length := by
    have hl : content.length = (s.line p l).cells := by rw [← length_lineContent s p l, hc]
    omega
  rw [List.getElem?_eq_getElem hlen]
  rfl

/-- The seat field of a roster line for a showing (R87). -/
def lineField (s : State) (p : PanelIx) (l : LineIx) (i : ShowingIx) : SeatField :=
  seatField (s.line p l) (s.roster.layouts.get p).filter (s.seats.entries.get i) (lineAt s.roster.shown p l)

/-- The content of a wide roster line assigned a showing (R86, R87). -/
theorem lineContent_wide {s : State} {p : PanelIx} {l : LineIx} {i : ShowingIx} (hk : (s.line p l).kind = .rosterWide)
    (h : lineAt s.roster.assign p l = some i) : lineContent s p l =
      (inPair (s.line p l).normal (clockText s.setup.origin (s.seats.entries.get i).start ++ [32] ++
          titleCells s (s.seats.entries.get i).title ++ [32] ++
          rightAlign 2 (decimal ((s.seats.entries.get i).hall.val + 1)) ++ [32]) ++
        inPair (lineField s p l i).pair (rightAlign 10 (lineField s p l i).text), (lineField s p l i).shown) := by
  simp only [lineContent, rosterCells, hk, h, if_true, lineField]

/-- The content of a narrow roster line assigned a showing (R86, R87). -/
theorem lineContent_narrow {s : State} {p : PanelIx} {l : LineIx} {i : ShowingIx}
    (hk : (s.line p l).kind = .rosterNarrow) (h : lineAt s.roster.assign p l = some i) : lineContent s p l =
      (inPair (s.line p l).normal (clockText s.setup.origin (s.seats.entries.get i).start ++ [32]) ++
        inPair (lineField s p l i).pair (rightAlign 10 (lineField s p l i).text), (lineField s p l i).shown) := by
  simp only [lineContent, rosterCells, hk, h, reduceCtorEq, if_false, lineField]

theorem lineContent_assigned {s : State} {p : PanelIx} {l : LineIx} {i : ShowingIx}
    (hk : (s.line p l).kind = .rosterWide ∨ (s.line p l).kind = .rosterNarrow)
    (h : lineAt s.roster.assign p l = some i) : (lineContent s p l).2 = (lineField s p l i).shown := by
  rcases hk with hk | hk
  · rw [lineContent_wide hk h]
  · rw [lineContent_narrow hk h]

theorem rosterCells_none {s : State} {p : PanelIx} {l : LineIx} (h : lineAt s.roster.assign p l = none) :
    rosterCells s p l =
      (inPair (s.line p l).normal (List.replicate (s.line p l).cells 32), lineAt s.roster.shown p l) := by
  simp only [rosterCells, h]

/-- A seat field's text, pair and figure, with the texts as codes (R87, R89). -/
theorem seatField_triple (ln : Line) (flt : Filter) (e : Seat) (p : Option Nat) :
    ((seatField ln flt e p).text, (seatField ln flt e p).pair, (seatField ln flt e p).shown) =
      if e.phase = .started then (codes [83, 84, 65, 82, 84, 69, 68], ln.started, none)
      else if e.left = 0 then (codes [83, 79, 76, 68, 32, 79, 85, 84], ln.soldOut, none)
      else
        let g := quantize flt.f flt.q flt.h e.left p
        (codes (digitCodes g.value ++ (if g.rounded = true ∧ 1 < flt.q then [43] else []) ++ [32, 76, 69, 70, 84]),
          if e.phase = .lastCall then ln.alt else ln.normal, g.shown) := by
  unfold seatField
  split
  · rfl
  · split
    · rfl
    · simp only [figureText_eq]

theorem noticeCells_none {s : State} {p : PanelIx} {l : LineIx}
    (h : (lineRanking s.notices p)[(s.line p l).rank]? = none) :
    noticeCells s p l = inPair (s.line p l).normal (List.replicate (s.line p l).width 32) := by
  simp only [noticeCells, h]

theorem noticeCells_some {s : State} {p : PanelIx} {l : LineIx} {n : NoticeIx}
    (h : (lineRanking s.notices p)[(s.line p l).rank]? = some n) :
    noticeCells s p l =
      let f := (s.notices.entries.get n).fields
      inPair (if 6 ≤ f.priority then (s.line p l).alt else (s.line p l).normal)
        (padRight (s.line p l).width (f.text.take (min f.length (s.line p l).width))) := by
  simp only [noticeCells, h]

theorem offer_frame (s : State) (r : CellRef) (b : Bool) :
    offer s r b = { s with painter := (offer s r b).painter } := by
  unfold offer enqueueCell setMarks setRedraw
  dsimp only
  repeat' split
  all_goals rfl

/-- The computation of a line changes targets, shown figures and the Cell Painter alone. -/
theorem computeLine_frame (s : State) (p : PanelIx) (l : LineIx) : computeLine s p l =
    { s with
      roster := { s.roster with
        targets := (computeLine s p l).roster.targets, shown := (computeLine s p l).roster.shown }
      painter := (computeLine s p l).painter } := by
  have hfold : ∀ (cs : List CellRef) (u : State), cs.foldl (fun t r => offer t r true) u =
      { u with painter := (cs.foldl (fun t r => offer t r true) u).painter } := by
    intro cs
    induction cs with
    | nil => exact fun u => rfl
    | cons c cs ih =>
      intro u
      rw [List.foldl_cons, ih, offer_frame u c true]
  have hc : computeLine s p l = { storeLine s p l with painter := (computeLine s p l).painter } := hfold _ _
  have hr := computeLine_roster s p l
  rw [hr]
  refine hc.trans ?_
  rw [storeLine_eq]
  rfl

/-- The targets of places that are not cells of the line stay. -/
theorem computeLine_targets_of_not_cell (s : State) (p : PanelIx) (l : LineIx) (r : CellRef)
    (h : r.panel ≠ p ∨ r.line ≠ l ∨ (s.line p l).cells ≤ r.cell.val) :
    cellAt (computeLine s p l).roster.targets r = cellAt s.roster.targets r := by
  rw [computeLine_targets]
  split
  · next hpl =>
    have hle := (h.resolve_left (not_not.mpr hpl.1)).resolve_left (not_not.mpr hpl.2)
    rw [List.getElem?_eq_none (by rw [length_lineContent]; exact hle)]
    rfl
  · rfl

end Sys2Proof.Machine

open Sys2Proof.Machine in
/-- Settles O49: the order by the sort of the eligible showings, the assignment by ranks, a line's cells by the content
of its kind, and a change of an entry by the recomputation of the panels that show its halls. -/
theorem rosterAndLineContent : Obligations.RosterAndLineContent := by
  refine ⟨fun s p => ?_, fun s p => ?_, fun s p l => ?_, fun s i x => ?_⟩
  · obtain ⟨hlen, hel, hord, hrest⟩ := rosterOf_ordered s p
    have hkey : ∀ {i j}, rosterBefore s i j = true ∧ i ≠ j → _ := fun h => rosterBefore_strict h
    simp only [startDistance, signedDistance_eq] at hkey
    exact ⟨hlen, fun i hi => eligible_iff.mp (hel i hi), hord.imp hkey, fun j hj hn =>
      ⟨(hrest j (eligible_iff.mpr hj) hn).1, fun i hi => hkey ((hrest j (eligible_iff.mpr hj) hn).2 i hi)⟩⟩
  · refine ⟨rfl, fun q hq => by simp [assignRoster, hq],
      fun l => ⟨fun hr => ?_, fun hr => ?_, assignRoster_shown s p p l⟩⟩
    · rw [assignRoster_assign, if_pos ⟨rfl, isRoster_iff.mpr hr⟩]
    · rw [assignRoster_assign, if_neg fun h => hr (isRoster_iff.mp h.2)]
  · refine ⟨computeLine_frame s p l, computeLine_targets_of_not_cell s p l, fun q k hne => ?_, fun hw hn => ?_,
      (offered_computeLine s p l).main, fun hk => ?_, fun hk => ⟨fun hnone => ?_, fun n hsome => ?_⟩, fun hk => ?_⟩
    · rw [computeLine_shown, if_neg fun h => hne.elim (fun h' => h' h.1) fun h' => h' h.2]
    · rw [computeLine_shown, if_pos ⟨rfl, rfl⟩]
      exact lineContent_other (Bool.eq_false_iff.mpr fun h => (isRoster_iff.mp h).elim hw hn)
    · exact computeLine_shows s p l (by rw [lineContent_clock hk, clockText_eq]; rfl)
    · exact computeLine_shows s p l (by rw [lineContent_notice hk, noticeCells_none hnone]; rfl)
    · exact computeLine_shows s p l (by rw [lineContent_notice hk, noticeCells_some hsome]; rfl)
    · have hr := isRoster_iff.mpr hk
      refine ⟨fun hnone => ⟨?_, ?_⟩, fun i hi => ?_⟩
      · rw [computeLine_shown, if_pos ⟨rfl, rfl⟩, lineContent_roster hr, rosterCells_none hnone]
      · exact computeLine_shows s p l (by rw [lineContent_roster hr, rosterCells_none hnone]; rfl)
      · intro e flt g v digits field seats title hall
        have hfield : field = ((lineField s p l i).text, (lineField s p l i).pair, (lineField s p l i).shown) :=
          (seatField_triple _ _ _ _).symm
        have hseats : seats = inPair (lineField s p l i).pair (rightAlign 10 (lineField s p l i).text) := by
          simp only [seats, hfield]
          rfl
        refine ⟨?_, fun hnarrow => ?_, fun hwide => ?_⟩
        · rw [computeLine_shown, if_pos ⟨rfl, rfl⟩, lineContent_assigned hk hi, hfield]
        · exact computeLine_shows s p l (by rw [lineContent_narrow hnarrow hi, clockText_eq, hseats]; rfl)
        · exact computeLine_shows s p l (by rw [lineContent_wide hwide hi, clockText_eq, hallText_eq, hseats]; rfl)
  · refine ⟨?_, changeSeat_entry s i x, changeSeat_changed s i x⟩
    have h := changeSeat_boards s i x
    simp only [fieldsChanged_iff] at h
    exact h
end
